-- ==== Sys2Proof/Word.lean ====
section
/-! DEFINITION. The widths of the host interface (00_scope.md R6): data, address, tick argument, command word. -/

namespace Sys2Proof

/-- `DATA_W`: 8 bits (R6, R34). -/
abbrev Byte := BitVec 8

/-- `ADDR_W`: the 16-bit host address (R6, R34). -/
abbrev Addr := BitVec 16

/-- `DELTA_W`: the 32-bit unsigned tick argument (R6). -/
abbrev Delta := BitVec 32

/-- The one length of a command, 64 bits (R50, R59). -/
abbrev CommandWord := BitVec 64

end Sys2Proof
end

