-- ==== Sys2Proof/Config.lean ====
section
/-! DEFINITION. The implementation parameters of 00_scope.md R6 and the reset values that
93_implementation_defined.md lists as parameters N1 to N5, each at the value the spec gives.
The spec leaves no parameter open, so there is no free value here. `DOTS_PER_LINE` and `DOTS_PER_FRAME` follow from the
budgets (R65), and no rule depends on `SCREEN` or `DOT_RATE`. -/

namespace Sys2Proof.Config

/-- `VRAM_SIZE` (R6, R26). -/
def vramSize : Nat := 8192

/-- `VRAM_INDEX_MASK`: 13 bits (R6, R37). -/
def vramIndexMask : Addr := 0x1FFF#16

/-- `BUDGET_OAMSCAN`, in dots (R6, R65). -/
def budgetOamScan : Nat := 80

/-- `BUDGET_PIXELTRANSFER`, in dots (R6, R65). -/
def budgetPixelTransfer : Nat := 172

/-- `BUDGET_HBLANK`, in dots (R6, R65). -/
def budgetHBlank : Nat := 204

/-- `BUDGET_VBLANK_LINE`, in dots (R6, R65). -/
def budgetVBlankLine : Nat := 456

/-- `VISIBLE_LINES`: LY 0..143 (R6, R14). -/
def visibleLines : Nat := 144

/-- `TOTAL_LINES`: LY 0..153 (R6, R14). -/
def totalLines : Nat := 154

/-- `UNMAPPED_READ_VALUE` (R6, R36). -/
def unmappedReadValue : Byte := 0xFF#8

/-- `VRAM_BLOCKED_READ_VALUE` (R6, R100). -/
def vramBlockedReadValue : Byte := 0xFF#8

/-- What a byte of VRAM that nothing has written reads as: "zero-initialized" (R26, R125). -/
def vramResetByte : Byte := 0x00#8

/-- Reset value of SCY (R16, R125; N1). -/
def resetScy : Byte := 0x00#8

/-- Reset value of SCX (R17, R125; N2). -/
def resetScx : Byte := 0x00#8

/-- Reset value of BGP (R18, R125; N3). -/
def resetBgp : Byte := 0x00#8

/-- Reset value of LYC (R15, R125; N4). -/
def resetLyc : Byte := 0x00#8

/-- Reset value of the STAT enables (R21, R125; N5). -/
def resetStatEn : BitVec 4 := 0b0000#4

end Sys2Proof.Config
end

