-- ==== Sys2Proof/Syntax.lean ====
section
/-! DEFINITION. The operations of the block: the 19 rows of spec/opcode_table.json (30_encoding.md R56),
and the three typed host operations they come from (00_scope.md R4). -/

namespace Sys2Proof

/-- One constructor per row of the operation map (R56). A READ or WRITE row whose address is fixed carries no
address; the VRAM and UNMAPPED rows carry theirs. -/
inductive Instr where
  | tick (delta : Delta)
  | readVram (addr : Addr)
  | readLcdc
  | readStat
  | readScy
  | readScx
  | readLy
  | readLyc
  | readBgp
  | readUnmapped (addr : Addr)
  | writeVram (addr : Addr) (value : Byte)
  | writeLcdc (value : Byte)
  | writeStat (value : Byte)
  | writeScy (value : Byte)
  | writeScx (value : Byte)
  | writeLy (value : Byte)
  | writeLyc (value : Byte)
  | writeBgp (value : Byte)
  | writeUnmapped (addr : Addr) (value : Byte)
  deriving DecidableEq, Repr

/-- The host operations, exactly three: `tick(delta)`, `read_byte(addr)`, `write_byte(addr, value)` (R4). -/
inductive HostOp where
  | tick (delta : Delta)
  | readByte (addr : Addr)
  | writeByte (addr : Addr) (value : Byte)
  deriving DecidableEq, Repr

/-- What an address selects (20_memory.md R35). -/
inductive Target where
  | vram
  | regLcdc
  | regStat
  | regScy
  | regScx
  | regLy
  | regLyc
  | regBgp
  | unmapped
  deriving DecidableEq, Repr

/-- The register names that may stand for an address (30_encoding.md R61). -/
inductive RegName where
  | lcdc
  | stat
  | scy
  | scx
  | ly
  | lyc
  | bgp
  deriving DecidableEq, Repr

/-- Why the decoder refuses a word (30_encoding.md R57). -/
inductive DecodeError where
  | reservedOp
  | reservedBitsSet
  deriving DecidableEq, Repr

end Sys2Proof
end

