-- ==== Sys2Proof/Machine/Operands.lean ====
section
/-! DEFINITION. The address operand: what it selects (20_memory.md R35), the VRAM index it gives (R37), and the
register names that stand for an address (30_encoding.md R61). -/

namespace Sys2Proof.Machine

/-- The address of each register (10_state.md R27; 30_encoding.md R61). -/
def regAddr : RegName → Addr
  | .lcdc => 0xFF40#16
  | .stat => 0xFF41#16
  | .scy => 0xFF42#16
  | .scx => 0xFF43#16
  | .ly => 0xFF44#16
  | .lyc => 0xFF45#16
  | .bgp => 0xFF47#16

/-- The decode of an address, on all 16 bits (R35). -/
def target (addr : Addr) : Target :=
  if 0x8000#16 ≤ addr ∧ addr ≤ 0x9FFF#16 then .vram
  else if addr = regAddr .lcdc then .regLcdc
  else if addr = regAddr .stat then .regStat
  else if addr = regAddr .scy then .regScy
  else if addr = regAddr .scx then .regScx
  else if addr = regAddr .ly then .regLy
  else if addr = regAddr .lyc then .regLyc
  else if addr = regAddr .bgp then .regBgp
  else .unmapped

/-- The VRAM index of a host address: `addr & 0x1FFF` (R37), as the key of a VRAM cell. -/
def vramIndex (addr : Addr) : Nat := (addr &&& Config.vramIndexMask).toNat

end Sys2Proof.Machine
end

