-- ==== Sys2Proof/WellFormed.lean ====
section
/-! DEFINITION. Which terms of `Instr` a word can spell: the address operand of a VRAM row lies in the window, that
of an UNMAPPED row selects nothing (30_encoding.md R56). Every delta and every value is legal (R51, R53). -/

namespace Sys2Proof

/-- The address condition of the row (R56). -/
def Instr.wellFormed : Instr → Bool
  | .tick _ => true
  | .readVram addr => Machine.target addr == .vram
  | .readLcdc => true
  | .readStat => true
  | .readScy => true
  | .readScx => true
  | .readLy => true
  | .readLyc => true
  | .readBgp => true
  | .readUnmapped addr => Machine.target addr == .unmapped
  | .writeVram addr _ => Machine.target addr == .vram
  | .writeLcdc _ => true
  | .writeStat _ => true
  | .writeScy _ => true
  | .writeScx _ => true
  | .writeLy _ => true
  | .writeLyc _ => true
  | .writeBgp _ => true
  | .writeUnmapped addr _ => Machine.target addr == .unmapped

end Sys2Proof
end

