-- ==== Sys2Proof/Decode.lean ====
section
/-! DEFINITION. The command word (30_encoding.md): its fields (R50), the decoder (R56, R57), the encoder from the
formats T, R and W (R51 to R53), the word of a typed host operation (R62), and the opcode table as data (R56). -/

namespace Sys2Proof

/-- `w[63:62]`, the operation field (R50). -/
def opField (w : CommandWord) : BitVec 2 := w.extractLsb' 62 2

/-- `w[61:32]`, reserved in every format (R50). -/
def reservedField (w : CommandWord) : BitVec 30 := w.extractLsb' 32 30

/-- `w[31:24]`, reserved in READ and WRITE (R50). -/
def hi8Field (w : CommandWord) : BitVec 8 := w.extractLsb' 24 8

/-- `w[23:8]`, the address (R54). -/
def addrField (w : CommandWord) : Addr := w.extractLsb' 8 16

/-- `w[7:0]`, the value of a WRITE, reserved in a READ (R52, R54). -/
def lo8Field (w : CommandWord) : Byte := w.extractLsb' 0 8

/-- `w[31:0]`, the delta of a TICK (R54). -/
def deltaField (w : CommandWord) : Delta := w.extractLsb' 0 32

/-- `READ_<target(addr)>(addr)` (R56). -/
def readOf (addr : Addr) : Instr :=
  match Machine.target addr with
  | .vram => .readVram addr
  | .regLcdc => .readLcdc
  | .regStat => .readStat
  | .regScy => .readScy
  | .regScx => .readScx
  | .regLy => .readLy
  | .regLyc => .readLyc
  | .regBgp => .readBgp
  | .unmapped => .readUnmapped addr

/-- `WRITE_<target(addr)>(addr, value)` (R56). -/
def writeOf (addr : Addr) (value : Byte) : Instr :=
  match Machine.target addr with
  | .vram => .writeVram addr value
  | .regLcdc => .writeLcdc value
  | .regStat => .writeStat value
  | .regScy => .writeScy value
  | .regScx => .writeScx value
  | .regLy => .writeLy value
  | .regLyc => .writeLyc value
  | .regBgp => .writeBgp value
  | .unmapped => .writeUnmapped addr value

/-- The decode pseudocode of R56, test by test in its order; the refusals are R57's. -/
def decode (w : CommandWord) : Except DecodeError Instr :=
  if reservedField w ≠ 0 then .error .reservedBitsSet
  else if opField w = 0b00#2 then .ok (.tick (deltaField w))
  else if opField w = 0b11#2 then .error .reservedOp
  else if hi8Field w ≠ 0 then .error .reservedBitsSet
  else if opField w = 0b01#2 ∧ lo8Field w ≠ 0 then .error .reservedBitsSet
  else if opField w = 0b01#2 then .ok (readOf (addrField w))
  else .ok (writeOf (addrField w) (lo8Field w))

/-- Format T (R51). -/
def formatT (delta : Delta) : CommandWord := 0b00#2 ++ 0#30 ++ delta

/-- Format R (R52). -/
def formatR (addr : Addr) : CommandWord := 0b01#2 ++ 0#30 ++ 0#8 ++ addr ++ 0#8

/-- Format W (R53). -/
def formatW (addr : Addr) (value : Byte) : CommandWord := 0b10#2 ++ 0#30 ++ 0#8 ++ addr ++ value

/-- The word of an instruction: its row's format (R56) with the row's address. -/
def encode : Instr → CommandWord
  | .tick delta => formatT delta
  | .readVram addr => formatR addr
  | .readLcdc => formatR 0xFF40#16
  | .readStat => formatR 0xFF41#16
  | .readScy => formatR 0xFF42#16
  | .readScx => formatR 0xFF43#16
  | .readLy => formatR 0xFF44#16
  | .readLyc => formatR 0xFF45#16
  | .readBgp => formatR 0xFF47#16
  | .readUnmapped addr => formatR addr
  | .writeVram addr value => formatW addr value
  | .writeLcdc value => formatW 0xFF40#16 value
  | .writeStat value => formatW 0xFF41#16 value
  | .writeScy value => formatW 0xFF42#16 value
  | .writeScx value => formatW 0xFF43#16 value
  | .writeLy value => formatW 0xFF44#16 value
  | .writeLyc value => formatW 0xFF45#16 value
  | .writeBgp value => formatW 0xFF47#16 value
  | .writeUnmapped addr value => formatW addr value

/-- The row a typed host operation is (R4, R56). -/
def HostOp.toInstr : HostOp → Instr
  | .tick delta => .tick delta
  | .readByte addr => readOf addr
  | .writeByte addr value => writeOf addr value

/-- The word of a typed host operation, by the arithmetic of R62. -/
def HostOp.word : HostOp → CommandWord
  | .tick delta => delta.setWidth 64
  | .readByte addr => 0x4000000000000000#64 ||| (addr.setWidth 64 <<< 8)
  | .writeByte addr value => 0x8000000000000000#64 ||| (addr.setWidth 64 <<< 8) ||| value.setWidth 64

/-- A row of spec/opcode_table.json: the bits `mask` selects must equal `bits` (R56). -/
structure OpcodeRow where
  mnemonic : String
  bits : CommandWord
  mask : CommandWord
  deriving DecidableEq, Repr

/-- The rows that take priority over their family's UNMAPPED row: TICK and the READ rows (opcode_table.json). -/
def readRows : List OpcodeRow :=
  [ ⟨"TICK", 0x0000000000000000, 0xFFFFFFFF00000000⟩,
    ⟨"READ_VRAM", 0x4000000000800000, 0xFFFFFFFFFFE000FF⟩,
    ⟨"READ_LCDC", 0x4000000000FF4000, 0xFFFFFFFFFFFFFFFF⟩,
    ⟨"READ_STAT", 0x4000000000FF4100, 0xFFFFFFFFFFFFFFFF⟩,
    ⟨"READ_SCY", 0x4000000000FF4200, 0xFFFFFFFFFFFFFFFF⟩,
    ⟨"READ_SCX", 0x4000000000FF4300, 0xFFFFFFFFFFFFFFFF⟩,
    ⟨"READ_LY", 0x4000000000FF4400, 0xFFFFFFFFFFFFFFFF⟩,
    ⟨"READ_LYC", 0x4000000000FF4500, 0xFFFFFFFFFFFFFFFF⟩,
    ⟨"READ_BGP", 0x4000000000FF4700, 0xFFFFFFFFFFFFFFFF⟩ ]

/-- The WRITE rows that take priority over WRITE_UNMAPPED (opcode_table.json). -/
def writeRows : List OpcodeRow :=
  [ ⟨"WRITE_VRAM", 0x8000000000800000, 0xFFFFFFFFFFE00000⟩,
    ⟨"WRITE_LCDC", 0x8000000000FF4000, 0xFFFFFFFFFFFFFF00⟩,
    ⟨"WRITE_STAT", 0x8000000000FF4100, 0xFFFFFFFFFFFFFF00⟩,
    ⟨"WRITE_SCY", 0x8000000000FF4200, 0xFFFFFFFFFFFFFF00⟩,
    ⟨"WRITE_SCX", 0x8000000000FF4300, 0xFFFFFFFFFFFFFF00⟩,
    ⟨"WRITE_LY", 0x8000000000FF4400, 0xFFFFFFFFFFFFFF00⟩,
    ⟨"WRITE_LYC", 0x8000000000FF4500, 0xFFFFFFFFFFFFFF00⟩,
    ⟨"WRITE_BGP", 0x8000000000FF4700, 0xFFFFFFFFFFFFFF00⟩ ]

/-- The UNMAPPED rows, "lowest priority" (opcode_table.json; R56). -/
def unmappedRows : List OpcodeRow :=
  [ ⟨"READ_UNMAPPED", 0x4000000000000000, 0xFFFFFFFFFF0000FF⟩,
    ⟨"WRITE_UNMAPPED", 0x8000000000000000, 0xFFFFFFFFFF000000⟩ ]

/-- spec/opcode_table.json, its rows in order of priority (R56). -/
def opcodeTable : List OpcodeRow := readRows ++ writeRows ++ unmappedRows

/-- The bits that must hold for the row (R56). -/
def OpcodeRow.matchesWord (r : OpcodeRow) (w : CommandWord) : Bool := w &&& r.mask == r.bits

/-- The mnemonic of the first row, in order of priority, that the word matches (R56). -/
def tableMnemonic (w : CommandWord) : Option String :=
  (opcodeTable.find? fun r => r.matchesWord w).map OpcodeRow.mnemonic

/-- The mnemonic of an instruction, as spec/opcode_table.json spells it. -/
def Instr.mnemonic : Instr → String
  | .tick _ => "TICK"
  | .readVram _ => "READ_VRAM"
  | .readLcdc => "READ_LCDC"
  | .readStat => "READ_STAT"
  | .readScy => "READ_SCY"
  | .readScx => "READ_SCX"
  | .readLy => "READ_LY"
  | .readLyc => "READ_LYC"
  | .readBgp => "READ_BGP"
  | .readUnmapped _ => "READ_UNMAPPED"
  | .writeVram _ _ => "WRITE_VRAM"
  | .writeLcdc _ => "WRITE_LCDC"
  | .writeStat _ => "WRITE_STAT"
  | .writeScy _ => "WRITE_SCY"
  | .writeScx _ => "WRITE_SCX"
  | .writeLy _ => "WRITE_LY"
  | .writeLyc _ => "WRITE_LYC"
  | .writeBgp _ => "WRITE_BGP"
  | .writeUnmapped _ _ => "WRITE_UNMAPPED"

/-- The command word of `nbits` bits whose value is `w`, every bit above `nbits` zero (R50: a command is a number
with bit 0 least significant, D19). -/
def tableWord (nbits w : Nat) : CommandWord := BitVec.ofNat 64 (w % 2 ^ nbits)

/-- The instruction the decoder reads from the word `w` of `nbits` bits, none where it refuses. Every command has one
length, 64 bits (R59), so no longer word is a command. -/
def decodeTableWord (nbits w : Nat) : Option Instr :=
  if nbits ≤ 64 then (decode (tableWord nbits w)).toOption else none

end Sys2Proof
end

