-- ==== Sys2Proof/Machine/State.lean ====
section
/-! DEFINITION. The state of the block (10_state.md), plain data: its storage, and beside it the ports of one step
(00_scope.md R5): the host inputs that wait, and the result of the last step. Why a step can stop (30_encoding.md R57). -/

namespace Sys2Proof.Machine

/-- The four display phases (R11). -/
inductive Mode where
  | hBlank
  | vBlank
  | oamScan
  | pixelTransfer
  deriving DecidableEq, Repr

/-- The five kinds of edge event the block outputs (60_exceptions.md R107). -/
inductive Event where
  | oamEntered
  | hBlankEntered
  | vBlankEntered
  | lycMatchChanged (nowMatching : Bool)
  | frameCompleted
  deriving DecidableEq, Repr

/-- What the host can put to the block: a command word (30_encoding.md R50), or the reset input
(70_reset_and_hazards.md R127). -/
inductive HostInput where
  | command (w : CommandWord)
  | reset
  deriving DecidableEq, Repr

/-- VRAM contents: (index, byte) cells in one canonical form (log 6); `Memory.wf` says which. -/
abbrev Memory := List Host.Cell

/-- Every piece of state the spec gives the block (R9, R125), then the model's own fields for the ports of the step
(R5, R55): log 1 and log 3. -/
structure State where
  /-- The video memory, indexed 0x0000..0x1FFF (R26). -/
  vram : Memory
  /-- The phase (R11). -/
  mode : Mode
  /-- Dots spent in the phase; no READ shows it (R13). -/
  clocks : BitVec 9
  /-- The scanline, LY (R14). -/
  ly : BitVec 8
  /-- The compare value, LYC (R15). -/
  lyc : BitVec 8
  /-- Vertical scroll, SCY (R16). -/
  scy : BitVec 8
  /-- Horizontal scroll, SCX (R17). -/
  scx : BitVec 8
  /-- Background palette, BGP (R18). -/
  bgp : BitVec 8
  /-- LCD control, LCDC (R19, R20). -/
  control : BitVec 8
  /-- STAT bits 6..3, the interrupt enables (R21). -/
  statEn : BitVec 4
  /-- Port: the host inputs that wait, the next one first (log 1). -/
  inputs : List HostInput
  /-- Port: the READ result of the last step, absent for every other step (R55; log 3). -/
  rdata : Option Byte
  /-- Port: the events of the last step, in order (R55, R110; log 3). -/
  events : List Event
  deriving DecidableEq, Repr

/-- Why the block itself would stop: never. "The block raises no exception, trap or fault, and no operation can fail"
(60_exceptions.md R105). No constructor, so no step can raise one; nothing here is unsafe. -/
inductive Fault
  deriving DecidableEq, Repr

/-- Why the decoder gives a word no operation (30_encoding.md R57), and the host's name for a row without a meaning. -/
inductive Refusal where
  /-- Raised by no arm of exec: every row has its meaning. Safe. -/
  | notModelled (mnemonic : String)
  /-- Raised by step on a word with `op = 0b11` and clear bits 61..32 (R57). Safe: the run stops. -/
  | reservedOp
  /-- Raised by step on a word with a reserved bit set (R57). Safe: the run stops. -/
  | reservedBitsSet
  deriving DecidableEq, Repr

/-- The machine right after reset (70_reset_and_hazards.md R125): every storage element at the value of its table, no
input waiting and no result yet (log 1, log 3). -/
def State.reset : State where
  vram := []
  mode := .hBlank
  clocks := 0#9
  ly := 0#8
  lyc := Config.resetLyc
  scy := Config.resetScy
  scx := Config.resetScx
  bgp := Config.resetBgp
  control := 0x00#8
  statEn := Config.resetStatEn
  inputs := []
  rdata := none
  events := []

end Sys2Proof.Machine
end

