-- ==== Sys2Proof/Machine/Flags.lean ====
section
/-! DEFINITION. What the block computes from its state: the LYC match and the mode code (10_state.md R12, R24, R25),
the STAT byte (R22), the named bits of LCDC and STAT (R20, R8), the events' 4-bit records and their meaning for the
external interrupt controller (60_exceptions.md R107, R113, R114), and the values exported to the renderer (R28). -/

namespace Sys2Proof.Machine

/-- `code(m)` (R12). -/
def modeCode : Mode → BitVec 2
  | .hBlank => 0b00#2
  | .vBlank => 0b01#2
  | .oamScan => 0b10#2
  | .pixelTransfer => 0b11#2

/-- The LYC match flag, STAT bit 2: computed, never stored (R24). -/
def lycMatch (s : State) : Bool := s.ly == s.lyc

/-- The value a READ of STAT returns: `{0b0, stat_en[3:0], (ly == lyc), code(mode)}` (R22, R84). -/
def statByte (s : State) : Byte :=
  0b0#1 ++ s.statEn ++ BitVec.ofBool (lycMatch s) ++ modeCode s.mode

/-- The part of a byte written to STAT that is stored, bits 6..3 (R85). -/
def statEnablesOf (value : Byte) : BitVec 4 := value.extractLsb' 3 4

/-- The gate is closed exactly when `mode == PixelTransfer` (42_vram_gate.md R99). -/
def gateClosed (s : State) : Bool := s.mode == .pixelTransfer

/-! ### LCDC fields (R20): only bit 7 affects the block -/

/-- LCDC bit 7, LCD_ENABLE. -/
def lcdEnable (control : Byte) : Bool := control.getLsbD 7

/-- LCDC bit 6, WIN_MAP. -/
def winMap (control : Byte) : Bool := control.getLsbD 6

/-- LCDC bit 5, WIN_ENABLE. -/
def winEnable (control : Byte) : Bool := control.getLsbD 5

/-- LCDC bit 4, TILE_DATA. -/
def tileData (control : Byte) : Bool := control.getLsbD 4

/-- LCDC bit 3, BG_MAP. -/
def bgMap (control : Byte) : Bool := control.getLsbD 3

/-- LCDC bit 2, OBJ_SIZE. -/
def objSize (control : Byte) : Bool := control.getLsbD 2

/-- LCDC bit 1, OBJ_ENABLE. -/
def objEnable (control : Byte) : Bool := control.getLsbD 1

/-- LCDC bit 0, BG_ENABLE. -/
def bgEnable (control : Byte) : Bool := control.getLsbD 0

/-! ### STAT enables (R22), by their place in the stored four bits -/

/-- STAT bit 6, LYC_INT_EN. -/
def lycIntEn (statEn : BitVec 4) : Bool := statEn.getLsbD 3

/-- STAT bit 5, OAM_INT_EN. -/
def oamIntEn (statEn : BitVec 4) : Bool := statEn.getLsbD 2

/-- STAT bit 4, VBLANK_INT_EN. -/
def vBlankIntEn (statEn : BitVec 4) : Bool := statEn.getLsbD 1

/-- STAT bit 3, HBLANK_INT_EN. -/
def hBlankIntEn (statEn : BitVec 4) : Bool := statEn.getLsbD 0

/-! ### Event records and interrupt sources -/

/-- The 4-bit record of an event, kind in bits 3..1, `now_matching` in bit 0 (R107). -/
def Event.record : Event → BitVec 4
  | .oamEntered => 0b000#3 ++ 0b0#1
  | .hBlankEntered => 0b001#3 ++ 0b0#1
  | .vBlankEntered => 0b010#3 ++ 0b0#1
  | .lycMatchChanged nowMatching => 0b011#3 ++ BitVec.ofBool nowMatching
  | .frameCompleted => 0b100#3 ++ 0b0#1

/-- The event a record stands for; none for the records that are never emitted (R107; 93_implementation_defined.md Z5). -/
def eventOfRecord (ev : BitVec 4) : Option Event :=
  if ev = 0b0000#4 then some .oamEntered
  else if ev = 0b0010#4 then some .hBlankEntered
  else if ev = 0b0100#4 then some .vBlankEntered
  else if ev = 0b0110#4 then some (.lycMatchChanged false)
  else if ev = 0b0111#4 then some (.lycMatchChanged true)
  else if ev = 0b1000#4 then some .frameCompleted
  else none

/-- The STAT interrupt sources of R114's table. -/
inductive StatSource where
  | mode0
  | mode1
  | mode2
  | lyc
  deriving DecidableEq, Repr

/-- The events that raise "the dedicated V-blank interrupt" of the external controller; no enable gates it (R113). -/
def raisesVBlankInterrupt : Event → Bool
  | .vBlankEntered => true
  | .oamEntered => false
  | .hBlankEntered => false
  | .lycMatchChanged _ => false
  | .frameCompleted => false

/-- The STAT interrupt source an event is, under the enables: R114's table, event by event. How a controller combines
and ranks them is not the block's (R114; log 15). -/
def statSource (statEn : BitVec 4) : Event → Option StatSource
  | .oamEntered => if oamIntEn statEn then some .mode2 else none
  | .hBlankEntered => if hBlankIntEn statEn then some .mode0 else none
  | .vBlankEntered => if vBlankIntEn statEn then some .mode1 else none
  | .lycMatchChanged nowMatching => if nowMatching && lycIntEn statEn then some .lyc else none
  | .frameCompleted => none

/-! ### Exports -/

/-- The values the block exports unchanged to the renderer (R28). -/
structure RendererView where
  control : Byte
  scy : Byte
  scx : Byte
  bgp : Byte
  vram : Memory
  mode : Mode
  ly : BitVec 8
  deriving DecidableEq, Repr

/-- The exported values of a state (R28). -/
def State.rendererView (s : State) : RendererView where
  control := s.control
  scy := s.scy
  scx := s.scx
  bgp := s.bgp
  vram := s.vram
  mode := s.mode
  ly := s.ly

end Sys2Proof.Machine
end

