-- ==== Sys2Proof/Machine/Ops.lean ====
section
/-! DEFINITION. The named operations every meaning is written with: VRAM cells (10_state.md R26), the result of an
operation (30_encoding.md R55), events (`emit`, 00_scope.md section 5), `SetLy` and `SetLyc` (40_timing_fsm.md R64),
the reset input (70_reset_and_hazards.md R127), and taking the host's next input. The block has no exception to take
and none to return from (60_exceptions.md R105, R115, R116). -/

namespace Sys2Proof.Machine

/-! ### VRAM cells -/

/-- The canonical form from a lower bound on: indexes strictly rising, each at least `lo` and below 8192, no entry
equal to what an unlisted index reads as. -/
def Memory.wfFrom : Nat → Memory → Bool
  | _, [] => true
  | lo, (i, v) :: m =>
    decide (lo ≤ i) && decide (i < Config.vramSize) && (v != Config.vramResetByte) && Memory.wfFrom (i + 1) m

/-- The canonical form of VRAM contents (log 6). -/
def Memory.wf (m : Memory) : Bool := Memory.wfFrom 0 m

/-- The byte at an index; an unlisted index reads 0x00 (R26). -/
def memRead : Memory → Nat → Byte
  | [], _ => Config.vramResetByte
  | (i, v) :: m, k => if i = k then v else memRead m k

/-- A cell, unless it holds what an unlisted index reads as. -/
def memCons (k : Nat) (v : Byte) (m : Memory) : Memory :=
  if v = Config.vramResetByte then m else (k, v) :: m

/-- Store a byte at an index, keeping the canonical form. -/
def memWrite : Memory → Nat → Byte → Memory
  | [], k, v => memCons k v []
  | (i, b) :: m, k, v =>
    if k < i then memCons k v ((i, b) :: m)
    else if k = i then memCons k v m
    else (i, b) :: memWrite m k v

/-- `VramRead(i)`: internal, no gate (00_scope.md section 5). -/
def vramRead (s : State) (i : Nat) : Byte := memRead s.vram i

/-- `VramWrite(i, v)`: internal, no gate (00_scope.md section 5). -/
def vramWrite (i : Nat) (v : Byte) (s : State) : State := { s with vram := memWrite s.vram i v }

/-! ### The result of an operation (R55) -/

/-- Start an operation: no read data, no event yet. The last operation's result is gone (R110). -/
def beginOp (s : State) : State := { s with rdata := none, events := [] }

/-- `return v`: the READ result, with an empty event list (R42, R55). -/
def answer (v : Byte) (s : State) : State := { s with rdata := some v, events := [] }

/-- `emit E`: append to the end of the current operation's event list. -/
def emit (e : Event) (s : State) : State := { s with events := s.events ++ [e] }

/-! ### LY and LYC -/

/-- Emit `LycMatchChanged` when the comparison is no longer what it was before (R64). -/
def emitLycEdge (before : Bool) (s : State) : State :=
  if lycMatch s = before then s else emit (.lycMatchChanged (lycMatch s)) s

/-- `SetLy(v)` (R64). -/
def setLy (v : BitVec 8) (s : State) : State := emitLycEdge (lycMatch s) { s with ly := v }

/-- `SetLyc(v)` (R64). -/
def setLyc (v : BitVec 8) (s : State) : State := emitLycEdge (lycMatch s) { s with lyc := v }

/-! ### The host's inputs -/

/-- The reset input: every storage element at its value of R125, no read byte and no event; the inputs that wait stay
(R127; log 4). -/
def assertReset (s : State) : State := { State.reset with inputs := s.inputs }

/-- The host presents nothing: the storage keeps its value, and there is no result (R3; log 2). -/
def idle (s : State) : State := beginOp s

/-- Take the host's next input, if one waits (log 1). -/
def nextInput (s : State) : Option (HostInput × State) :=
  match s.inputs with
  | [] => none
  | input :: rest => some (input, { s with inputs := rest })

/-- The name of the decoder's refusal (R57). -/
def refusalOf : DecodeError → Refusal
  | .reservedOp => .reservedOp
  | .reservedBitsSet => .reservedBitsSet

/-- Put a command word before every input that waits. -/
def pushCommand (w : CommandWord) (s : State) : State := { s with inputs := .command w :: s.inputs }

end Sys2Proof.Machine
end

