-- ==== Sys2Proof/Machine/RegisterFile.lean ====
section
/-! DEFINITION. The register file operations (41_register_file.md). -/

namespace Sys2Proof.Machine

/-- READ_LCDC (R82). -/
def execReadLcdc (s : State) : Host.Outcome State Fault Refusal := .next (answer s.control s)

/-- What a write of LCDC does after the value is stored, by the edge of bit 7 (R83). -/
def lcdEdge (oldEn newEn : Bool) (s : State) : State :=
  if oldEn = true ∧ newEn = false then { setLy 0#8 s with clocks := 0#9, mode := .hBlank }
  else if oldEn = false ∧ newEn = true then emit .oamEntered { setLy 0#8 s with clocks := 0#9, mode := .oamScan }
  else s

/-- WRITE_LCDC (R83). -/
def execWriteLcdc (value : Byte) (s : State) : Host.Outcome State Fault Refusal :=
  .next (lcdEdge (lcdEnable s.control) (lcdEnable value) { beginOp s with control := value })

/-- READ_STAT (R84). -/
def execReadStat (s : State) : Host.Outcome State Fault Refusal := .next (answer (statByte s) s)

/-- WRITE_STAT (R85). -/
def execWriteStat (value : Byte) (s : State) : Host.Outcome State Fault Refusal :=
  .next { beginOp s with statEn := statEnablesOf value }

/-- READ_SCY (R86). -/
def execReadScy (s : State) : Host.Outcome State Fault Refusal := .next (answer s.scy s)

/-- WRITE_SCY (R87). -/
def execWriteScy (value : Byte) (s : State) : Host.Outcome State Fault Refusal :=
  .next { beginOp s with scy := value }

/-- READ_SCX (R88). -/
def execReadScx (s : State) : Host.Outcome State Fault Refusal := .next (answer s.scx s)

/-- WRITE_SCX (R89). -/
def execWriteScx (value : Byte) (s : State) : Host.Outcome State Fault Refusal :=
  .next { beginOp s with scx := value }

/-- READ_LY (R90). -/
def execReadLy (s : State) : Host.Outcome State Fault Refusal := .next (answer s.ly s)

/-- WRITE_LY is ignored (R91). -/
def execWriteLy (_value : Byte) (s : State) : Host.Outcome State Fault Refusal := .next (beginOp s)

/-- READ_LYC (R92). -/
def execReadLyc (s : State) : Host.Outcome State Fault Refusal := .next (answer s.lyc s)

/-- WRITE_LYC (R93). -/
def execWriteLyc (value : Byte) (s : State) : Host.Outcome State Fault Refusal := .next (setLyc value (beginOp s))

/-- READ_BGP (R94). -/
def execReadBgp (s : State) : Host.Outcome State Fault Refusal := .next (answer s.bgp s)

/-- WRITE_BGP (R95). -/
def execWriteBgp (value : Byte) (s : State) : Host.Outcome State Fault Refusal :=
  .next { beginOp s with bgp := value }

/-- READ_UNMAPPED returns 0xFF (R96). -/
def execReadUnmapped (_addr : Addr) (s : State) : Host.Outcome State Fault Refusal :=
  .next (answer Config.unmappedReadValue s)

/-- WRITE_UNMAPPED is ignored (R97). -/
def execWriteUnmapped (_addr : Addr) (_value : Byte) (s : State) : Host.Outcome State Fault Refusal :=
  .next (beginOp s)

end Sys2Proof.Machine
end

