-- ==== Sys2Proof/Machine/TimingFsm.lean ====
section
/-! DEFINITION. The timing FSM and TICK (40_timing_fsm.md). -/

namespace Sys2Proof.Machine

/-- `budget(m)`: the dots a phase lasts (R65). -/
def budget : Mode → Nat
  | .oamScan => Config.budgetOamScan
  | .pixelTransfer => Config.budgetPixelTransfer
  | .hBlank => Config.budgetHBlank
  | .vBlank => Config.budgetVBlankLine

/-- `EndOamScan()` (R68). -/
def endOamScan (s : State) : State := { s with mode := .pixelTransfer }

/-- `EndPixelTransfer()` (R69). -/
def endPixelTransfer (s : State) : State := emit .hBlankEntered { s with mode := .hBlank }

/-- The phase an HBlank hands over to, decided on the LY that `SetLy` left (R70, R72). -/
def leaveHBlank (s : State) : State :=
  if Config.visibleLines ≤ s.ly.toNat then emit .vBlankEntered { s with mode := .vBlank }
  else emit .oamEntered { s with mode := .oamScan }

/-- `EndHBlank()` (R70). On an `ly` that no run reaches the sum wraps at 8 bits, as R70 quotes (log 7). -/
def endHBlank (s : State) : State := leaveHBlank (setLy (s.ly + 1#8) s)

/-- The LY after one line of V-blank: `n <- ly + 1`, a natural number, and 0 once it is 154 or more (R71). -/
def lyAfterVBlankLine (ly : BitVec 8) : BitVec 8 :=
  if Config.totalLines ≤ ly.toNat + 1 then 0#8 else BitVec.ofNat 8 (ly.toNat + 1)

/-- The phase after one line of V-blank, decided on the LY that `SetLy` left (R71, R72). -/
def leaveVBlankLine (s : State) : State :=
  if s.ly = 0#8 then emit .frameCompleted (emit .oamEntered { s with mode := .oamScan }) else s

/-- `EndVBlank()` (R71). -/
def endVBlank (s : State) : State := leaveVBlankLine (setLy (lyAfterVBlankLine s.ly) s)

/-- The end of the current phase (R67's `case mode of`). -/
def endPhase (s : State) : State :=
  match s.mode with
  | .oamScan => endOamScan s
  | .pixelTransfer => endPixelTransfer s
  | .hBlank => endHBlank s
  | .vBlank => endVBlank s

/-- R67's loop on the natural number `c` of dots not yet spent, for at most `fuel` passes. -/
def tickLoop : Nat → Nat → State → State
  | 0, c, s => { s with clocks := BitVec.ofNat 9 c }
  | fuel + 1, c, s =>
    if c < budget s.mode then { s with clocks := BitVec.ofNat 9 c }
    else tickLoop fuel (c - budget s.mode) (endPhase s)

/-- R67's loop from `c` dots: each pass takes at least 80, so floor(c / 80) + 1 passes are enough (R67; log 8). -/
def spendDots (c : Nat) (s : State) : State := tickLoop (c / 80 + 1) c s

/-- TICK(delta) (R67). -/
def execTick (delta : Delta) (s : State) : Host.Outcome State Fault Refusal :=
  .next (spendDots (s.clocks.toNat + delta.toNat) (beginOp s))

end Sys2Proof.Machine
end

