-- ==== Sys2Proof/Machine/VramGate.lean ====
section
/-! DEFINITION. The VRAM gate operations (42_vram_gate.md). -/

namespace Sys2Proof.Machine

/-- READ_VRAM: 0xFF without reading the buffer while the gate is closed (R100). -/
def execReadVram (addr : Addr) (s : State) : Host.Outcome State Fault Refusal :=
  .next (answer (if gateClosed s then Config.vramBlockedReadValue else vramRead s (vramIndex addr)) s)

/-- WRITE_VRAM: dropped while the gate is closed (R101). -/
def execWriteVram (addr : Addr) (value : Byte) (s : State) : Host.Outcome State Fault Refusal :=
  .next (if gateClosed s then beginOp s else vramWrite (vramIndex addr) value (beginOp s))

end Sys2Proof.Machine
end

