-- ==== Sys2Proof/Machine/Dispatch.lean ====
section
/-! DEFINITION. One arm per row of the operation map (30_encoding.md R56). -/

namespace Sys2Proof.Machine

def exec (i : Instr) (s : State) : Host.Outcome State Fault Refusal :=
  match i with
  | .tick delta => Sys2Proof.Machine.execTick delta s
  | .readVram addr => Sys2Proof.Machine.execReadVram addr s
  | .readLcdc => Sys2Proof.Machine.execReadLcdc s
  | .readStat => Sys2Proof.Machine.execReadStat s
  | .readScy => Sys2Proof.Machine.execReadScy s
  | .readScx => Sys2Proof.Machine.execReadScx s
  | .readLy => Sys2Proof.Machine.execReadLy s
  | .readLyc => Sys2Proof.Machine.execReadLyc s
  | .readBgp => Sys2Proof.Machine.execReadBgp s
  | .readUnmapped addr => Sys2Proof.Machine.execReadUnmapped addr s
  | .writeVram addr value => Sys2Proof.Machine.execWriteVram addr value s
  | .writeLcdc value => Sys2Proof.Machine.execWriteLcdc value s
  | .writeStat value => Sys2Proof.Machine.execWriteStat value s
  | .writeScy value => Sys2Proof.Machine.execWriteScy value s
  | .writeScx value => Sys2Proof.Machine.execWriteScx value s
  | .writeLy value => Sys2Proof.Machine.execWriteLy value s
  | .writeLyc value => Sys2Proof.Machine.execWriteLyc value s
  | .writeBgp value => Sys2Proof.Machine.execWriteBgp value s
  | .writeUnmapped addr value => Sys2Proof.Machine.execWriteUnmapped addr value s

end Sys2Proof.Machine
end

