-- ==== Sys2Proof/Machine/Step.lean ====
section
/-! DEFINITION. One step: the block takes the host's next input (00_scope.md R3, R5). The block fetches nothing and has
no program counter (10_state.md R10): a program is the sequence of the host's operations (30_encoding.md R60; log 1). -/

namespace Sys2Proof.Machine

/-- One atomic step (R5): the operation the next command word decodes to, the refusal of a word that spells none (R57),
the reset input (R127), or nothing where the host presents nothing (R3; log 2). -/
def step (s : State) : Host.Outcome State Fault Refusal :=
  match nextInput s with
  | none => .next (idle s)
  | some (.reset, s') => .next (assertReset s')
  | some (.command w, s') =>
    match decode w with
    | .ok i => exec i s'
    | .error e => .refused (refusalOf e)

/-- The state with the word `w` of `nbits` bits as the host's next command, before those that wait (log 1, log 14). -/
def State.withFetchWord (s : State) (nbits w : Nat) : State := pushCommand (tableWord nbits w) s

end Sys2Proof.Machine
end

