-- ==== Sys2Proof/Machine/Assembly.lean ====
section
/-! DEFINITION. The call syntax of a program (30_encoding.md R60, R61): one operation a line, read into typed host
operations and placed as the inputs that wait. The white space and letter case it takes are log 11. -/

namespace Sys2Proof.Machine

/-- A digit in base 10 or 16 (R60: "Numbers are decimal or `0x` hexadecimal"). -/
def digitValue (base : Nat) (c : Char) : Option Nat :=
  let n := c.toNat
  if 48 ≤ n ∧ n ≤ 57 then some (n - 48)
  else if base = 16 ∧ 97 ≤ n ∧ n ≤ 102 then some (n - 87)
  else if base = 16 ∧ 65 ≤ n ∧ n ≤ 70 then some (n - 55)
  else none

/-- The value of digits, most significant first, after the value `acc`. -/
def digitsValue (base : Nat) : List Char → Nat → Option Nat
  | [], acc => some acc
  | c :: cs, acc =>
    match digitValue base c with
    | some d => digitsValue base cs (acc * base + d)
    | none => none

/-- A number: `0x` and hexadecimal digits, or decimal digits; at least one digit. -/
def parseNumber (cs : List Char) : Option Nat :=
  match cs with
  | [] => none
  | ['0', 'x'] => none
  | '0' :: 'x' :: ds => digitsValue 16 ds 0
  | ds => digitsValue 10 ds 0

/-- A number no larger than `max` (R60's operand ranges). -/
def parseBounded (max : Nat) (cs : List Char) : Option Nat :=
  match parseNumber cs with
  | some n => if n ≤ max then some n else none
  | none => none

/-- The register a name stands for (R61). -/
def parseRegName (cs : List Char) : Option RegName :=
  if cs = "LCDC".toList then some .lcdc
  else if cs = "STAT".toList then some .stat
  else if cs = "SCY".toList then some .scy
  else if cs = "SCX".toList then some .scx
  else if cs = "LY".toList then some .ly
  else if cs = "LYC".toList then some .lyc
  else if cs = "BGP".toList then some .bgp
  else none

/-- An address operand: a register name, which stands for its number and nothing else, or a number 0..0xFFFF (R60, R61). -/
def parseAddr (cs : List Char) : Option Addr :=
  match parseRegName cs with
  | some r => some (regAddr r)
  | none => (parseBounded 0xFFFF cs).map (BitVec.ofNat 16)

/-- Drop white space at the front. -/
def trimFront : List Char → List Char
  | [] => []
  | c :: cs => if c = ' ' ∨ c = '\t' ∨ c = '\r' then trimFront cs else c :: cs

/-- Drop white space at both ends. -/
def trim (cs : List Char) : List Char := (trimFront (trimFront cs).reverse).reverse

/-- Drop a comment: `--` starts one (R60). -/
def dropComment : List Char → List Char
  | [] => []
  | '-' :: '-' :: _ => []
  | c :: cs => c :: dropComment cs

/-- Cut at every `c`. -/
def splitAt (c : Char) : List Char → List (List Char)
  | [] => [[]]
  | d :: cs =>
    if d = c then [] :: splitAt c cs
    else
      match splitAt c cs with
      | [] => [[d]]
      | part :: parts => (d :: part) :: parts

/-- The operation of a name and its operands (R60). -/
def parseCall (name : List Char) (args : List (List Char)) : Option HostOp :=
  match args with
  | [a] =>
    if name = "tick".toList then (parseBounded 0xFFFFFFFF a).map fun d => .tick (BitVec.ofNat 32 d)
    else if name = "read_byte".toList then (parseAddr a).map .readByte
    else none
  | [a, b] =>
    if name = "write_byte".toList then
      match parseAddr a, parseBounded 0xFF b with
      | some addr, some v => some (.writeByte addr (BitVec.ofNat 8 v))
      | _, _ => none
    else none
  | _ => none

/-- What stands before the closing parenthesis that ends a call. -/
def callBody (cs : List Char) : Option (List Char) :=
  match cs.reverse with
  | ')' :: body => some body.reverse
  | _ => none

/-- `<name>(<operand>, …)`. -/
def parseOp (cs : List Char) : Option HostOp :=
  match splitAt '(' cs with
  | [name, rest] =>
    match callBody rest with
    | some body => parseCall (trim name) ((splitAt ',' body).map trim)
    | none => none
  | _ => none

/-- The operations of one line: none where it holds a comment or nothing, one where it holds a call; `none` where it is
neither (R60). -/
def parseLine (line : List Char) : Option (List HostOp) :=
  match trim (dropComment line) with
  | [] => some []
  | cs => (parseOp cs).map fun op => [op]

/-- The operations of the lines, in order (R60). -/
def parseLines : List (List Char) → Option (List HostOp)
  | [] => some []
  | line :: lines =>
    match parseLine line, parseLines lines with
    | some ops, some rest => some (ops ++ rest)
    | _, _ => none

/-- A program: one operation per line, executed in order (R60). -/
def parseProgram (text : List Char) : Option (List HostOp) := parseLines (splitAt '\n' text)

/-- Place a program as the inputs that wait, each operation as its one word (R62; log 1). -/
def loadProgram (ops : List HostOp) (s : State) : State :=
  { s with inputs := ops.map fun op => .command op.word }

end Sys2Proof.Machine
end

