-- ==== Sys2Proof/Safety.lean ====
section
/-! DEFINITION. What claims are stated with: the invariants of 10_state.md section 7, which inputs are legal, the byte a
READ returns, runs of operations, and the place of the sequencer in the frame. -/

namespace Sys2Proof.Machine

/-- The invariants between any two operations: `ly < 154` (R29), `mode == VBlank` iff `ly >= 144` (R30),
`clocks < budget(mode)` (R32); and VRAM is in the model's canonical form (log 6). Invariant 3 (R31) holds by
construction, since STAT is computed. -/
abbrev State.Inv (s : State) : Prop :=
  s.ly.toNat < 154 ∧ (s.mode = .vBlank ↔ 144 ≤ s.ly.toNat) ∧ s.clocks.toNat < budget s.mode ∧ Memory.wf s.vram = true

/-- Equal storage: the ten elements of R125. The ports (log 1, log 3) may differ. -/
abbrev sameStorage (s t : State) : Prop :=
  t.vram = s.vram ∧ t.mode = s.mode ∧ t.clocks = s.clocks ∧ t.ly = s.ly ∧ t.lyc = s.lyc ∧ t.scy = s.scy ∧
    t.scx = s.scx ∧ t.bgp = s.bgp ∧ t.control = s.control ∧ t.statEn = s.statEn

/-- An operation returns read data exactly when it is a READ (R55). -/
def isRead : Instr → Bool
  | .tick _ => false
  | .readVram _ => true
  | .readLcdc => true
  | .readStat => true
  | .readScy => true
  | .readScx => true
  | .readLy => true
  | .readLyc => true
  | .readBgp => true
  | .readUnmapped _ => true
  | .writeVram _ _ => false
  | .writeLcdc _ => false
  | .writeStat _ => false
  | .writeScy _ => false
  | .writeScx _ => false
  | .writeLy _ => false
  | .writeLyc _ => false
  | .writeBgp _ => false
  | .writeUnmapped _ _ => false

/-- An input that the decoder does not refuse (R57). -/
def legalInput : HostInput → Bool
  | .command w => (decode w).toOption.isSome
  | .reset => true

/-- The byte a READ of an address returns in a state (R4, R56). -/
def readValue (addr : Addr) (s : State) : Option Byte :=
  match exec (readOf addr) s with
  | .next t => t.rdata
  | .fault _ => none
  | .refused _ => none

/-- The state after a sequence of operations, where each completes. -/
def runInstrs : List Instr → State → Option State
  | [], s => some s
  | i :: is, s =>
    match exec i s with
    | .next t => runInstrs is t
    | .fault _ => none
    | .refused _ => none

/-- The dot of a line at which a phase is entered (40_timing_fsm.md R77). -/
def phaseStart : Mode → Nat
  | .oamScan => 0
  | .pixelTransfer => 80
  | .hBlank => 252
  | .vBlank => 0

/-- The dot of the frame that the sequencer position (R10) stands for, 0..70223: the frame begins where the FSM enters
OamScan at LY 0 (R77, R78). -/
def framePosition (s : State) : Nat := 456 * s.ly.toNat + phaseStart s.mode + s.clocks.toNat

/-- The events a change of the comparison emits: none where it stays, else one (40_timing_fsm.md R64). -/
def lycEvents (before after : Bool) : List Event :=
  if before = after then [] else [.lycMatchChanged after]

end Sys2Proof.Machine
end

