-- ==== Sys2Proof/Certificates/Slice0/Obligations.lean ====
section
/-! DEFINITION. The statements of this row: the numbered rules of spec/ that say what an operation or the machine does.
A statement that rests on a choice the spec marks as its own ([decision], [derived]) or on an entry of the assumption
log says so in its docstring. -/

open Sys2Proof Sys2Proof.Machine

/-! ### The command word (30_encoding.md) -/

/-- Decoding the word of a well-formed operation gives the operation back, with every operand at every value (R50 to
R54, R56). Rests on the spec's own decision D2 (the command word). -/
def Obligations.DecodeOfEncode : Prop :=
  ∀ i : Instr, i.wellFormed = true → decode (encode i) = .ok i

/-- A word that decodes has one meaning and no bit of it is dropped: what it decodes to is well formed, and encodes to
that very word (R56: "A legal word decodes to exactly one row of this table"). Rests on the spec's own decision D2. -/
def Obligations.EncodeOfDecode : Prop :=
  ∀ (w : CommandWord) (i : Instr), decode w = .ok i → i.wellFormed = true ∧ encode i = w

/-- The decoder picks the row of spec/opcode_table.json: the first row, the UNMAPPED rows last, whose match and mask
bits hold; and it refuses exactly the words that match no row (R56). Rests on the spec's own decision D2. -/
def Obligations.DecodeFollowsOpcodeTable : Prop :=
  ∀ w : CommandWord, (decode w).toOption.map Instr.mnemonic = tableMnemonic w

/-- Which words are refused, and with which reason (R57). Rests on the spec's own decision D2. -/
def Obligations.RefusedWordsExactly : Prop :=
  ∀ w : CommandWord,
    (decode w = .error .reservedOp ↔ w.extractLsb' 32 30 = 0#30 ∧ w.extractLsb' 62 2 = 0b11#2) ∧
    (decode w = .error .reservedBitsSet ↔
      w.extractLsb' 32 30 ≠ 0#30 ∨
      ((w.extractLsb' 62 2 = 0b01#2 ∨ w.extractLsb' 62 2 = 0b10#2) ∧ w.extractLsb' 24 8 ≠ 0#8) ∨
      (w.extractLsb' 62 2 = 0b01#2 ∧ w.extractLsb' 0 8 ≠ 0#8))

/-- Words the spec writes out (R62; 95_test_vectors.md section 2.5) decode to what it says. A sanity statement; the
layout is the spec's own decision D2. -/
def Obligations.WrittenOutWordsDecode : Prop :=
  decode 0x00000000000001C8#64 = .ok (.tick 456#32) ∧
  decode 0x00000000FFFFFFFF#64 = .ok (.tick 4294967295#32) ∧
  decode 0x4000000000FF4400#64 = .ok .readLy ∧
  decode 0x4000000000FF4100#64 = .ok .readStat ∧
  decode 0x4000000000FF4600#64 = .ok (.readUnmapped 0xFF46#16) ∧
  decode 0x40000000009FFF00#64 = .ok (.readVram 0x9FFF#16) ∧
  decode 0x80000000008000AB#64 = .ok (.writeVram 0x8000#16 0xAB#8) ∧
  decode 0x8000000000FF45FF#64 = .ok (.writeLyc 0xFF#8) ∧
  decode 0x80000000007FFF01#64 = .ok (.writeUnmapped 0x7FFF#16 0x01#8) ∧
  decode 0xC000000000000000#64 = .error .reservedOp ∧
  decode 0xC000000100000000#64 = .error .reservedBitsSet

/-- The one word of each host operation, by the arithmetic of R62, decodes to that operation on the target of its
address: none of the host's operations is refused (R4, R51 to R53, R62). Rests on the spec's own decision D2. -/
def Obligations.HostOperationWordDecodes : Prop :=
  ∀ op : HostOp, decode op.word = .ok op.toInstr

/-- Which addresses select what (R35, R36, R38). Rests on the spec's own decision D13. -/
def Obligations.AddressDecodeRanges : Prop :=
  ∀ a : Addr,
    (target a = .vram ↔ 0x8000 ≤ a.toNat ∧ a.toNat ≤ 0x9FFF) ∧
    (target a = .regLcdc ↔ a = 0xFF40#16) ∧
    (target a = .regStat ↔ a = 0xFF41#16) ∧
    (target a = .regScy ↔ a = 0xFF42#16) ∧
    (target a = .regScx ↔ a = 0xFF43#16) ∧
    (target a = .regLy ↔ a = 0xFF44#16) ∧
    (target a = .regLyc ↔ a = 0xFF45#16) ∧
    (target a = .regBgp ↔ a = 0xFF47#16) ∧
    (target a = .unmapped ↔
      a.toNat ≤ 0x7FFF ∨ (0xA000 ≤ a.toNat ∧ a.toNat ≤ 0xFF3F) ∨ a = 0xFF46#16 ∨ 0xFF48 ≤ a.toNat)

/-- The VRAM index (R37): the low 13 bits, `addr - 0x8000` in the window, and a bijection from the window onto
0x0000..0x1FFF. -/
def Obligations.VramIndexIsBijection : Prop :=
  (∀ a : Addr, vramIndex a = (a &&& 0x1FFF#16).toNat ∧ vramIndex a = a.toNat % 8192) ∧
  (∀ a : Addr, target a = .vram → vramIndex a = a.toNat - 0x8000) ∧
  (∀ k : Nat, k < 8192 → ∃! a : Addr, target a = .vram ∧ vramIndex a = k)

/-! ### The step -/

/-- When the next input is a word that decodes to an operation, the step is that operation, on the state whose input
has been taken (R5; the inputs are the model's own, log 1). -/
def Obligations.StepRunsDecodedCommand : Prop :=
  ∀ (s : State) (w : CommandWord) (rest : List HostInput) (i : Instr),
    s.inputs = .command w :: rest → decode w = .ok i → step s = exec i { s with inputs := rest }

/-- A refused word gives no next state, and the step names the decoder's reason (R57; the spec's own decision D2). -/
def Obligations.StepRefusesReservedWord : Prop :=
  ∀ (s : State) (w : CommandWord) (rest : List HostInput), s.inputs = .command w :: rest →
    (decode w = .error .reservedOp → step s = .refused .reservedOp) ∧
    (decode w = .error .reservedBitsSet → step s = .refused .reservedBitsSet)

/-- The word the host's tool places is the one the next step runs, and the inputs that waited still wait (the model's
own convention, log 1 and log 14). -/
def Obligations.StepRunsPlacedWord : Prop :=
  ∀ (s : State) (w : Nat) (i : Instr), decodeTableWord 64 w = some i → step (s.withFetchWord 64 w) = exec i s

/-- The reset input, from every state, leaves every storage element at its reset value, with no read byte and no event
(R127, the spec's own decision D25; that it is an input that waits, and that later inputs stay, is the model's, log 4). -/
def Obligations.ResetInputRestoresReset : Prop :=
  ∀ (s : State) (rest : List HostInput), s.inputs = .reset :: rest →
    ∃ t, step s = .next t ∧ sameStorage State.reset t ∧ t.rdata = none ∧ t.events = [] ∧ t.inputs = rest

/-- Where no input waits, a step keeps the storage and gives no result: "The block never steps on its own" (R3). That
such a step is a next state is the model's choice (log 2). -/
def Obligations.IdleStepKeepsStorage : Prop :=
  ∀ s : State, s.inputs = [] → step s = .next { s with rdata := none, events := [] }

/-- No step faults; a word that decodes always completes, with read data exactly for a READ; and the one stop is the
decoder's refusal (R105). The first clause is true by type, since `Fault` has no constructor: that type is how the model
says R105's "no exception, trap or fault". That read data is there exactly for a READ is R55, the spec's own decisions D1
and D3; which words are refused is its decision D2. That the later inputs still wait is the model's choice (log 1), and so
is that a step with no input is never refused (log 2). -/
def Obligations.OperationsNeverFail : Prop :=
  (∀ (s : State) (f : Fault), step s ≠ .fault f) ∧
  (∀ (s : State) (w : CommandWord) (rest : List HostInput) (i : Instr),
    s.inputs = .command w :: rest → decode w = .ok i →
      ∃ t, step s = .next t ∧ t.inputs = rest ∧ t.rdata.isSome = isRead i) ∧
  (∀ (s : State) (r : Refusal), step s = .refused r →
    ∃ w rest e, s.inputs = .command w :: rest ∧ decode w = .error e ∧ r = refusalOf e)

/-- A program of typed operations, placed as the inputs that wait, runs to its end in order, each operation on the state
the one before it left (R44, R60; the inputs are the model's own, log 1). -/
def Obligations.LoadedProgramRunsInOrder : Prop :=
  ∀ (ops : List HostOp) (s : State),
    ∃ t : State, Host.Core.run Sys2Proof.core ops.length (loadProgram ops s) = .next t ∧
      runInstrs (ops.map HostOp.toInstr) { s with inputs := [] } = some t

/-! ### Invariants (10_state.md section 7) -/

/-- Every step keeps the invariants R29, R30 and R32, which the spec marks [derived], and VRAM's canonical form (the
model's, log 6). -/
def Obligations.StepKeepsInvariants : Prop :=
  ∀ s t : State, s.Inv → step s = .next t → t.Inv

/-- The reset state meets the invariants (R125; R29, R30, R32 are [derived]). -/
def Obligations.ResetMeetsInvariants : Prop :=
  State.reset.Inv

/-- From every state that meets the invariants, legal inputs run without a stop for as long as one likes, meeting the
invariants throughout, and are taken in order (R44, R105; R29, R30, R32 are [derived]). Three clauses are the model's
choices: that the inputs are a list of the state (log 1), that a step beyond the last of them is a next state (log 2), and
that the inputs after a reset stay, which is what `s.inputs.drop n` says where one is among them (log 4). -/
def Obligations.LegalInputsRunOn : Prop :=
  ∀ (n : Nat) (s : State), s.Inv → (∀ x ∈ s.inputs, legalInput x = true) →
    ∃ t : State, Host.Core.run Sys2Proof.core n s = .next t ∧ t.Inv ∧ t.inputs = s.inputs.drop n

/-! ### Reset (70_reset_and_hazards.md) -/

/-- What reset leaves in every storage element (R125). LYC, SCY, SCX, BGP and the STAT enables rest on the spec's own
decision D9. -/
def Obligations.ResetValues : Prop :=
  (∀ k, memRead State.reset.vram k = 0x00#8) ∧ State.reset.mode = .hBlank ∧ State.reset.clocks = 0#9 ∧
  State.reset.ly = 0#8 ∧ State.reset.control = 0x00#8 ∧ State.reset.lyc = 0x00#8 ∧ State.reset.scy = 0x00#8 ∧
  State.reset.scx = 0x00#8 ∧ State.reset.bgp = 0x00#8 ∧ State.reset.statEn = 0b0000#4

/-- What a READ returns right after reset, at every address (R126). Rests on the spec's own decisions D7, D8, D9 and
D13. -/
def Obligations.ReadValuesAfterReset : Prop :=
  ∀ a : Addr, readValue a State.reset =
    some (if a = 0xFF41#16 then 0x04#8
      else if 0x8000#16 ≤ a ∧ a ≤ 0x9FFF#16 then 0x00#8
      else if a = 0xFF40#16 ∨ a = 0xFF42#16 ∨ a = 0xFF43#16 ∨ a = 0xFF44#16 ∨ a = 0xFF45#16 ∨ a = 0xFF47#16 then 0x00#8
      else 0xFF#8)

/-- The first line after reset is short: `tick(456)` leaves (HBlank, LY 1, clocks 0) and emits the three events of R67's
worked example (R128, which the spec marks [derived]; 90_conflicts.md C2). A sanity statement. -/
def Obligations.FirstLineAfterReset : Prop :=
  exec (.tick 456#32) State.reset =
    .next { State.reset with ly := 1#8, events := [.lycMatchChanged false, .oamEntered, .hBlankEntered] }

/-! ### READs of the register file (41_register_file.md) -/

/-- The READs of the stored registers return them, whatever the mode, and change nothing else (R82, R86, R90, R92, R94;
READ_SCX too, whose rule R88 also names a reset value of the spec's own). LCDC and LYC read back as written, LCDC and LY
are 0 after reset, and LY never reads 154 or more. -/
def Obligations.ReadsReturnStoredRegisters : Prop :=
  (∀ s : State,
    exec .readLcdc s = .next { s with rdata := some s.control, events := [] } ∧
    exec .readScy s = .next { s with rdata := some s.scy, events := [] } ∧
    exec .readScx s = .next { s with rdata := some s.scx, events := [] } ∧
    exec .readLy s = .next { s with rdata := some s.ly, events := [] } ∧
    exec .readLyc s = .next { s with rdata := some s.lyc, events := [] } ∧
    exec .readBgp s = .next { s with rdata := some s.bgp, events := [] }) ∧
  (∀ (s t : State) (v : Byte), exec (.writeLcdc v) s = .next t → t.control = v) ∧
  (∀ (s t : State) (v : Byte), exec (.writeLyc v) s = .next t → t.lyc = v) ∧
  (∀ s : State, s.Inv → s.ly.toNat ≤ 153) ∧ State.reset.control = 0x00#8 ∧ State.reset.ly = 0#8

/-- READ_STAT returns the assembled byte and changes nothing else (R22, R84). Bit 7 is the spec's own decision D8, bit 2
its decision D7. -/
def Obligations.ReadStatAssemblesByte : Prop :=
  ∀ s : State, ∃ b : Byte, exec .readStat s = .next { s with rdata := some b, events := [] } ∧
    b.getLsbD 7 = false ∧ b.extractLsb' 3 4 = s.statEn ∧ b.getLsbD 2 = (s.ly == s.lyc) ∧
    b.extractLsb' 0 2 = modeCode s.mode

/-- What STAT bits 1..0 show in each mode, in every state (R12, R25). -/
def Obligations.StatShowsModeCode : Prop :=
  ∀ s : State, ∃ b : Byte, readValue 0xFF41#16 s = some b ∧
    (s.mode = .hBlank → b.extractLsb' 0 2 = 0b00#2) ∧
    (s.mode = .vBlank → b.extractLsb' 0 2 = 0b01#2) ∧
    (s.mode = .oamScan → b.extractLsb' 0 2 = 0b10#2) ∧
    (s.mode = .pixelTransfer → b.extractLsb' 0 2 = 0b11#2)

/-- READ_UNMAPPED returns 0xFF and changes nothing else; it is what a READ of every unmapped address is, 0xFF46, 0xFF48,
0x0000 and 0xFFFF among them (R96). -/
def Obligations.UnmappedReadsReturnFF : Prop :=
  (∀ (s : State) (a : Addr), exec (.readUnmapped a) s = .next { s with rdata := some 0xFF#8, events := [] }) ∧
  (∀ (s : State) (a : Addr), target a = .unmapped → readOf a = .readUnmapped a ∧ readValue a s = some 0xFF#8) ∧
  target 0xFF46#16 = .unmapped ∧ target 0xFF48#16 = .unmapped ∧ target 0x0000#16 = .unmapped ∧
  target 0xFFFF#16 = .unmapped

/-- A READ of any address changes no storage and emits nothing, and a second READ returns the same byte (R42, the spec's
own decision D15). -/
def Obligations.ReadsHaveNoSideEffect : Prop :=
  ∀ (a : Addr) (s : State), ∃ b : Byte,
    exec (readOf a) s = .next { s with rdata := some b, events := [] } ∧
    exec (readOf a) { s with rdata := some b, events := [] } = .next { s with rdata := some b, events := [] }

/-! ### WRITEs of the register file (41_register_file.md) -/

/-- WRITE_SCY, WRITE_SCX and WRITE_BGP store the value, in every mode, emit nothing and change nothing else (R87, R89,
R95). -/
def Obligations.ScrollAndPaletteWritesStore : Prop :=
  ∀ (s : State) (v : Byte),
    exec (.writeScy v) s = .next { s with scy := v, rdata := none, events := [] } ∧
    exec (.writeScx v) s = .next { s with scx := v, rdata := none, events := [] } ∧
    exec (.writeBgp v) s = .next { s with bgp := v, rdata := none, events := [] }

/-- WRITE_STAT stores bits 6..3 of the value as the enables and changes no other storage, so of the byte READ_STAT shows
only bits 6..3 change: neither the mode code nor the match flag can be written (R134). -/
def Obligations.StatWriteChangesOnlyEnables : Prop :=
  ∀ (s : State) (v : Byte), ∃ t, exec (.writeStat v) s = .next t ∧
    sameStorage { s with statEn := v.extractLsb' 3 4 } t ∧ t.inputs = s.inputs ∧ t.rdata = none ∧
    (statByte t).extractLsb' 3 4 = v.extractLsb' 3 4 ∧ (statByte t).extractLsb' 0 3 = (statByte s).extractLsb' 0 3 ∧
    (statByte t).getLsbD 7 = (statByte s).getLsbD 7

/-- WRITE_LCDC in full, case by case of bit 7 before and after: the value is stored, an edge restarts the FSM, and the
events are LycMatchChanged where the comparison changes, then OamEntered on 0→1 (R83; which edges emit what is the spec's
own decision D16, when LycMatchChanged is emitted its D6). -/
def Obligations.LcdcWriteByEdge : Prop :=
  ∀ (s : State) (v : Byte),
    (s.control.getLsbD 7 = true → v.getLsbD 7 = false →
      exec (.writeLcdc v) s = .next { s with
        control := v, ly := 0#8, clocks := 0#9, mode := .hBlank, rdata := none,
        events := lycEvents (s.ly == s.lyc) (0#8 == s.lyc) }) ∧
    (s.control.getLsbD 7 = false → v.getLsbD 7 = true →
      exec (.writeLcdc v) s = .next { s with
        control := v, ly := 0#8, clocks := 0#9, mode := .oamScan, rdata := none,
        events := lycEvents (s.ly == s.lyc) (0#8 == s.lyc) ++ [.oamEntered] }) ∧
    (s.control.getLsbD 7 = v.getLsbD 7 →
      exec (.writeLcdc v) s = .next { s with control := v, rdata := none, events := [] })

/-- LCDC bit-7 edges restart the FSM in the same operation, and a write with bit 7 unchanged leaves the sequencer where it
is (R133). -/
def Obligations.LcdcEdgeRestartsFsm : Prop :=
  ∀ (s : State) (v : Byte), ∃ t, exec (.writeLcdc v) s = .next t ∧
    (v.getLsbD 7 ≠ s.control.getLsbD 7 →
      t.ly = 0#8 ∧ t.clocks = 0#9 ∧ t.mode = if v.getLsbD 7 then .oamScan else .hBlank) ∧
    (v.getLsbD 7 = s.control.getLsbD 7 → t.ly = s.ly ∧ t.clocks = s.clocks ∧ t.mode = s.mode)

/-- WRITE_LYC stores the value, changes nothing else, and emits LycMatchChanged(ly == value) exactly where the comparison
changed; STAT bit 2 is then (ly == value), and a value of 154 or more makes it 0 (R93). -/
def Obligations.LycWriteRecomputesMatch : Prop :=
  ∀ (s : State) (v : Byte),
    exec (.writeLyc v) s = .next { s with
      lyc := v, rdata := none,
      events := if (s.ly == s.lyc) = (s.ly == v) then [] else [.lycMatchChanged (s.ly == v)] } ∧
    (statByte { s with lyc := v }).getLsbD 2 = (s.ly == v) ∧
    (s.Inv → 154 ≤ v.toNat → (statByte { s with lyc := v }).getLsbD 2 = false)

/-- The policy rejections: a closed gate answers 0xFF and drops a write, a WRITE to LY and a WRITE to an unmapped address
are ignored; none changes storage or emits an event (R106). -/
def Obligations.PolicyRejectionsAreSilent : Prop :=
  ∀ (s : State) (a : Addr) (v : Byte),
    (s.mode = .pixelTransfer → exec (.readVram a) s = .next { s with rdata := some 0xFF#8, events := [] }) ∧
    (s.mode = .pixelTransfer → exec (.writeVram a v) s = .next { s with rdata := none, events := [] }) ∧
    exec (.writeLy v) s = .next { s with rdata := none, events := [] } ∧
    exec (.writeUnmapped a v) s = .next { s with rdata := none, events := [] }

/-- Writes are idempotent, at every address: the second of two identical WRITEs changes no storage and emits nothing (R49,
which the spec marks [derived]). -/
def Obligations.WritesAreIdempotent : Prop :=
  ∀ (a : Addr) (v : Byte) (s : State), Memory.wf s.vram = true →
    ∃ t, exec (writeOf a v) s = .next t ∧ exec (writeOf a v) t = .next { t with events := [] }

/-- Each control register is written by its own WRITE and by nothing else (R15 to R21, R112; the model's conclusion from
the operation rules). -/
def Obligations.RegistersChangedOnlyByOwnWrite : Prop :=
  ∀ (i : Instr) (s t : State), exec i s = .next t →
    (t.control ≠ s.control → ∃ v, i = .writeLcdc v) ∧
    (t.statEn ≠ s.statEn → ∃ v, i = .writeStat v) ∧
    (t.scy ≠ s.scy → ∃ v, i = .writeScy v) ∧
    (t.scx ≠ s.scx → ∃ v, i = .writeScx v) ∧
    (t.lyc ≠ s.lyc → ∃ v, i = .writeLyc v) ∧
    (t.bgp ≠ s.bgp → ∃ v, i = .writeBgp v)

/-- Among the operations, only TICK and a WRITE to LCDC that changes bit 7 move the sequencer position (R10, which the spec
marks [derived]). -/
def Obligations.SequencerMovedOnlyByTickOrLcdcEdge : Prop :=
  ∀ (i : Instr) (s t : State), exec i s = .next t →
    ¬(t.mode = s.mode ∧ t.ly = s.ly ∧ t.clocks = s.clocks) →
    (∃ d, i = .tick d) ∨ ∃ v, i = .writeLcdc v ∧ v.getLsbD 7 ≠ s.control.getLsbD 7

/-- Only TICK, an LCDC bit-7 edge and an LYC write that changes the comparison emit events (R108; when LycMatchChanged is
emitted is the spec's own decision D6, that a STAT write emits nothing its D21). -/
def Obligations.OnlyTheseOperationsEmit : Prop :=
  ∀ (i : Instr) (s t : State), exec i s = .next t → t.events ≠ [] →
    (∃ d, i = .tick d) ∨ (∃ v, i = .writeLcdc v ∧ v.getLsbD 7 ≠ s.control.getLsbD 7) ∨
    ∃ v, i = .writeLyc v ∧ (s.ly == s.lyc) ≠ (s.ly == v)

/-! ### The VRAM gate (42_vram_gate.md) -/

/-- READ_VRAM: 0xFF whatever the buffer holds while `mode == PixelTransfer`, the byte at the index otherwise; nothing else
changes (R100). -/
def Obligations.VramReadThroughGate : Prop :=
  ∀ (s : State) (a : Addr), target a = .vram →
    (s.mode = .pixelTransfer → exec (.readVram a) s = .next { s with rdata := some 0xFF#8, events := [] }) ∧
    (s.mode ≠ .pixelTransfer →
      exec (.readVram a) s = .next { s with rdata := some (memRead s.vram (vramIndex a)), events := [] })

/-- WRITE_VRAM: dropped while `mode == PixelTransfer`; otherwise the byte at the index becomes the value, every other byte
reads as before, and nothing else changes (R101). -/
def Obligations.VramWriteThroughGate : Prop :=
  ∀ (s : State) (a : Addr) (v : Byte), target a = .vram → Memory.wf s.vram = true →
    (s.mode = .pixelTransfer → exec (.writeVram a v) s = .next { s with rdata := none, events := [] }) ∧
    (s.mode ≠ .pixelTransfer → ∃ m : Memory,
      exec (.writeVram a v) s = .next { s with vram := m, rdata := none, events := [] } ∧
      memRead m (vramIndex a) = v ∧ ∀ k, k ≠ vramIndex a → memRead m k = memRead s.vram k)

/-- Nothing but a WRITE_VRAM through the open gate changes VRAM: no write in PixelTransfer (R33, which the spec marks
[derived]), no TICK, no register access, no LCDC edge (R102). -/
def Obligations.VramChangedOnlyByOpenWrite : Prop :=
  ∀ (i : Instr) (s t : State), exec i s = .next t →
    (∀ a v, i = .writeVram a v → s.mode = .pixelTransfer) → t.vram = s.vram

/-- Read after write, with any operations between that do not write the same index, TICKs through PixelTransfer included
(R103, which the spec marks [derived]). -/
def Obligations.VramReadAfterWrite : Prop :=
  ∀ (s t u : State) (a : Addr) (v : Byte) (between : List Instr),
    Memory.wf s.vram = true → target a = .vram → s.mode ≠ .pixelTransfer → exec (.writeVram a v) s = .next t →
    (∀ b x, Instr.writeVram b x ∈ between → vramIndex b ≠ vramIndex a) →
    runInstrs between t = some u → u.mode ≠ .pixelTransfer → readValue a u = some v

/-! ### The timing FSM and TICK (40_timing_fsm.md) -/

/-- TICK is R67's loop on `clocks + delta`, a natural number: while it is at least the budget of the current phase (R65),
that budget is taken off and the phase ends; what is left becomes `clocks`, and fits. Each pass compares what remains with
the budget of the phase just entered (R73). -/
def Obligations.TickIsTheBudgetLoop : Prop :=
  (∀ (d : Delta) (s : State),
    exec (.tick d) s = .next (spendDots (s.clocks.toNat + d.toNat) { s with rdata := none, events := [] })) ∧
  (∀ (c : Nat) (s : State), spendDots c s =
    if budget s.mode ≤ c then spendDots (c - budget s.mode) (endPhase s) else { s with clocks := BitVec.ofNat 9 c }) ∧
  (∀ (c : Nat) (s : State), (spendDots c s).clocks.toNat < budget (spendDots c s).mode) ∧
  budget .oamScan = 80 ∧ budget .pixelTransfer = 172 ∧ budget .hBlank = 204 ∧ budget .vBlank = 456

/-- What each phase end does: the LY update and its LycMatchChanged come before the decision that depends on LY and before
the phase's event (R66, R68, R69, R72). -/
def Obligations.PhaseEndsFollowTable : Prop :=
  ∀ s : State,
    (s.mode = .oamScan → endPhase s = { s with mode := .pixelTransfer }) ∧
    (s.mode = .pixelTransfer → endPhase s = { s with mode := .hBlank, events := s.events ++ [.hBlankEntered] }) ∧
    (s.mode = .hBlank → s.ly.toNat < 143 → endPhase s = { s with
      mode := .oamScan, ly := s.ly + 1#8,
      events := s.events ++ lycEvents (s.ly == s.lyc) (s.ly + 1#8 == s.lyc) ++ [.oamEntered] }) ∧
    (s.mode = .hBlank → s.ly.toNat = 143 → endPhase s = { s with
      mode := .vBlank, ly := 144#8,
      events := s.events ++ lycEvents (s.ly == s.lyc) (144#8 == s.lyc) ++ [.vBlankEntered] }) ∧
    (s.mode = .vBlank → 144 ≤ s.ly.toNat → s.ly.toNat < 153 → endPhase s = { s with
      ly := s.ly + 1#8, events := s.events ++ lycEvents (s.ly == s.lyc) (s.ly + 1#8 == s.lyc) }) ∧
    (s.mode = .vBlank → s.ly.toNat = 153 → endPhase s = { s with
      mode := .oamScan, ly := 0#8,
      events := s.events ++ lycEvents (s.ly == s.lyc) (0#8 == s.lyc) ++ [.oamEntered, .frameCompleted] })

/-- TICK always completes, and writes `mode`, `clocks`, `ly` and its events and nothing else; afterwards `clocks` is below
the budget (R67; R32 is [derived], R123 the spec's own decision D10). -/
def Obligations.TickCompletesAndKeepsTheRest : Prop :=
  ∀ (d : Delta) (s : State), ∃ t, exec (.tick d) s = .next t ∧
    t.vram = s.vram ∧ t.lyc = s.lyc ∧ t.scy = s.scy ∧ t.scx = s.scx ∧ t.bgp = s.bgp ∧ t.control = s.control ∧
    t.statEn = s.statEn ∧ t.inputs = s.inputs ∧ t.rdata = none ∧ t.clocks.toNat < budget t.mode

/-- Additivity, from every state: TICK(a) then TICK(b) leaves what TICK(a + b) leaves, and the event lists concatenate
(R76, which the spec marks [derived]). -/
def Obligations.TickIsAdditive : Prop :=
  ∀ (a b : Delta) (s t u : State), a.toNat + b.toNat < 2 ^ 32 →
    exec (.tick a) s = .next t → exec (.tick b) t = .next u →
    exec (.tick (a + b)) s = .next { u with events := t.events ++ u.events }

/-- TICK(0) changes no storage and emits nothing (R75, the spec's own decision D11). -/
def Obligations.TickZeroChangesNothing : Prop :=
  ∀ s : State, s.Inv → exec (.tick 0#32) s = .next { s with rdata := none, events := [] }

/-- TICK reads `mode`, `clocks`, `ly` and `lyc` and nothing else, LCDC least of all: two states that agree on those four
tick alike (R67, R74: the spec's own decision D10). -/
def Obligations.TickReadsOnlyTheSequencerAndLyc : Prop :=
  ∀ (d : Delta) (s s' : State), s'.mode = s.mode → s'.clocks = s.clocks → s'.ly = s.ly → s'.lyc = s.lyc →
    ∃ t t', exec (.tick d) s = .next t ∧ exec (.tick d) s' = .next t' ∧
      t'.mode = t.mode ∧ t'.clocks = t.clocks ∧ t'.ly = t.ly ∧ t'.events = t.events

/-- The timeline of a visible line, from its OamScan: where TICK(k) stands for every k below 456, and at 456 (R77, which
the spec marks [derived]). -/
def Obligations.VisibleLineTimeline : Prop :=
  ∀ (k : Delta) (s : State), s.mode = .oamScan → s.clocks = 0#9 → s.ly.toNat ≤ 143 → k.toNat ≤ 456 →
    ∃ t, exec (.tick k) s = .next t ∧
      (k.toNat ≤ 79 → t.mode = .oamScan ∧ t.clocks.toNat = k.toNat ∧ t.ly = s.ly) ∧
      (80 ≤ k.toNat → k.toNat ≤ 251 → t.mode = .pixelTransfer ∧ t.clocks.toNat = k.toNat - 80 ∧ t.ly = s.ly) ∧
      (252 ≤ k.toNat → k.toNat ≤ 455 → t.mode = .hBlank ∧ t.clocks.toNat = k.toNat - 252 ∧ t.ly = s.ly) ∧
      (k.toNat = 456 → t.mode = (if s.ly.toNat = 143 then .vBlank else .oamScan) ∧ t.clocks = 0#9 ∧ t.ly = s.ly + 1#8)

/-- The FSM is a counter of 70 224 dots: TICK(delta) adds delta to the place in the frame that (mode, LY, clocks) stands
for, modulo the frame (R77, R78, which the spec marks [derived]). -/
def Obligations.TickAdvancesFramePosition : Prop :=
  ∀ (d : Delta) (s : State), s.Inv →
    ∃ t, exec (.tick d) s = .next t ∧ framePosition t = (framePosition s + d.toNat) % 70224

/-- The place in the frame is below 70 224 and says all of (mode, LY, clocks) (the model's reading of R77, R78, [derived]). -/
def Obligations.FramePositionIsFaithful : Prop :=
  (∀ s : State, s.Inv → framePosition s < 70224) ∧
  (∀ s t : State, s.Inv → t.Inv → framePosition s = framePosition t →
    s.mode = t.mode ∧ s.ly = t.ly ∧ s.clocks = t.clocks)

/-- The frame period: TICK(70 224·k) returns every (mode, LY, clocks) to itself; from a frame's start V-blank is entered
after 65 664 dots at LY 144 and lasts 4560 (R78, which the spec marks [derived]). -/
def Obligations.FramePeriodReturnsSequencer : Prop :=
  (∀ (k : Nat) (s : State), s.Inv → 70224 * k < 2 ^ 32 →
    ∃ t, exec (.tick (BitVec.ofNat 32 (70224 * k))) s = .next t ∧ t.mode = s.mode ∧ t.ly = s.ly ∧ t.clocks = s.clocks) ∧
  (∀ (d : Delta) (s : State), s.mode = .oamScan → s.ly = 0#8 → s.clocks = 0#9 → d.toNat < 70224 →
    ∃ t, exec (.tick d) s = .next t ∧ (t.mode = .vBlank ↔ 65664 ≤ d.toNat) ∧ (65664 = d.toNat → t.ly = 144#8))

/-- "Starting from reset with LCD enabled": after any LCDC 0→1 write, TICK(70 224) returns to (OamScan, LY 0, clocks 0)
(R130, the spec's own decision D26). -/
def Obligations.EnabledLcdFramePeriod : Prop :=
  ∀ (s : State) (v : Byte), s.control.getLsbD 7 = false → v.getLsbD 7 = true →
    ∃ t u, exec (.writeLcdc v) s = .next t ∧ exec (.tick 70224#32) t = .next u ∧
      u.mode = .oamScan ∧ u.ly = 0#8 ∧ u.clocks = 0#9

/-- The events of one frame, from its start, whatever LYC is (R79, which the spec marks [derived]). -/
def Obligations.FrameEventCounts : Prop :=
  ∀ s : State, s.mode = .oamScan → s.ly = 0#8 → s.clocks = 0#9 →
    ∃ t, exec (.tick 70224#32) s = .next t ∧
      t.events.count .hBlankEntered = 144 ∧ t.events.count .oamEntered = 144 ∧
      t.events.count .vBlankEntered = 1 ∧ t.events.count .frameCompleted = 1 ∧
      t.events.count (.lycMatchChanged true) = (if s.lyc.toNat ≤ 153 then 1 else 0) ∧
      t.events.count (.lycMatchChanged false) = (if s.lyc.toNat ≤ 153 then 1 else 0)

/-- V-blank is entered in the one dot at which LY becomes 144, and in no other (R113; that one dot at a time is exact is
R76, which the spec marks [derived]). -/
def Obligations.VBlankEnteredWhenLyBecomes144 : Prop :=
  ∀ s : State, s.Inv → ∃ t, exec (.tick 1#32) s = .next t ∧
    (.vBlankEntered ∈ t.events ↔ s.ly = 143#8 ∧ t.ly = 144#8)

/-! ### Events (60_exceptions.md) -/

/-- The events' meaning for the external controller: R114's table, by the STAT bits as READ_STAT shows them, and nothing
about how sources combine. -/
def Obligations.StatInterruptSources : Prop :=
  ∀ s : State,
    statSource s.statEn .oamEntered = (if (statByte s).getLsbD 5 then some .mode2 else none) ∧
    statSource s.statEn .hBlankEntered = (if (statByte s).getLsbD 3 then some .mode0 else none) ∧
    statSource s.statEn .vBlankEntered = (if (statByte s).getLsbD 4 then some .mode1 else none) ∧
    statSource s.statEn (.lycMatchChanged true) = (if (statByte s).getLsbD 6 then some .lyc else none) ∧
    statSource s.statEn (.lycMatchChanged false) = none ∧
    statSource s.statEn .frameCompleted = none

/-- The 4-bit record of each event, and the records never emitted (R107, the spec's own decisions D3 and D4;
93_implementation_defined.md Z5). -/
def Obligations.EventRecordsAreExact : Prop :=
  (∀ e : Event, e.record = match e with
    | .oamEntered => 0x0#4
    | .hBlankEntered => 0x2#4
    | .vBlankEntered => 0x4#4
    | .lycMatchChanged false => 0x6#4
    | .lycMatchChanged true => 0x7#4
    | .frameCompleted => 0x8#4) ∧
  (∀ (r : BitVec 4) (e : Event), eventOfRecord r = some e ↔ e.record = r)

/-! ### Call syntax (30_encoding.md) -/

/-- Lines in the source's notation parse to the operation and the word R62 gives; a register name stands for its number;
a comment is nothing; an operand out of range is no operation (R60, R61, R62: the spec's own decision D20; white space is
log 11). A sanity statement. -/
def Obligations.SourceCallsParse : Prop :=
  parseLine "tick(456)".toList = some [.tick 456#32] ∧ (HostOp.tick 456#32).word = 0x00000000000001C8#64 ∧
  parseLine "read_byte(0xFF44)".toList = some [.readByte 0xFF44#16] ∧
  parseLine "read_byte(LY)".toList = some [.readByte 0xFF44#16] ∧
  (HostOp.readByte 0xFF44#16).word = 0x4000000000FF4400#64 ∧
  parseLine "write_byte(0x8000, 0xAB) -- upload".toList = some [.writeByte 0x8000#16 0xAB#8] ∧
  (HostOp.writeByte 0x8000#16 0xAB#8).word = 0x80000000008000AB#64 ∧
  parseLine "-- nothing".toList = some [] ∧
  parseLine "write_byte(0x8000, 0x100)".toList = none ∧ parseLine "read_byte(0x10000)".toList = none ∧
  parseLine "tick(4294967296)".toList = none
end

