-- ==== Sys2Proof/Laws/Encoding.lean ====
section
/-! SUPPORT. The fields of a word of each format (30_encoding.md R50 to R53), a word as the number its fields make, and
what decides an address (20_memory.md R35). -/

namespace Sys2Proof

theorem toNat_append_eq {m n : Nat} (x : BitVec m) (y : BitVec n) : (x ++ y).toNat = x.toNat * 2 ^ n + y.toNat := by
  rw [BitVec.toNat_append, ← Nat.shiftLeft_add_eq_or_of_lt y.isLt, Nat.shiftLeft_eq]

theorem formatT_toNat (d : Delta) : (formatT d).toNat = d.toNat := by
  have h1 := toNat_append_eq (0b00#2 ++ 0#30) d
  have h2 : (0b00#2 ++ 0#30).toNat = 0 := by decide
  change (0b00#2 ++ 0#30 ++ d).toNat = _
  omega

theorem formatR_toNat (a : Addr) : (formatR a).toNat = 2 ^ 62 + a.toNat * 256 := by
  have h1 := toNat_append_eq (0b01#2 ++ 0#30 ++ 0#8 ++ a) 0#8
  have h2 := toNat_append_eq (0b01#2 ++ 0#30 ++ 0#8) a
  have h3 : (0b01#2 ++ 0#30 ++ 0#8).toNat = 2 ^ 38 := by decide
  change (0b01#2 ++ 0#30 ++ 0#8 ++ a ++ 0#8).toNat = _
  simp only [BitVec.toNat_ofNat] at h1
  omega

theorem formatW_toNat (a : Addr) (v : Byte) : (formatW a v).toNat = 2 ^ 63 + a.toNat * 256 + v.toNat := by
  have h1 := toNat_append_eq (0b10#2 ++ 0#30 ++ 0#8 ++ a) v
  have h2 := toNat_append_eq (0b10#2 ++ 0#30 ++ 0#8) a
  have h3 : (0b10#2 ++ 0#30 ++ 0#8).toNat = 2 ^ 39 := by decide
  change (0b10#2 ++ 0#30 ++ 0#8 ++ a ++ v).toNat = _
  omega

/-- A word is the number its fields make. -/
theorem word_toNat (w : CommandWord) :
    w.toNat = (opField w).toNat * 2 ^ 62 + (reservedField w).toNat * 2 ^ 32 + (hi8Field w).toNat * 2 ^ 24 +
      (addrField w).toNat * 2 ^ 8 + (lo8Field w).toNat := by
  have := w.isLt
  simp only [opField, reservedField, hi8Field, addrField, lo8Field, BitVec.extractLsb'_toNat, Nat.shiftRight_eq_div_pow]
  omega

/-- Words with equal fields are equal. -/
theorem word_ext (w w' : CommandWord) (h1 : opField w = opField w') (h2 : reservedField w = reservedField w')
    (h3 : hi8Field w = hi8Field w') (h4 : addrField w = addrField w') (h5 : lo8Field w = lo8Field w') : w = w' := by
  apply BitVec.eq_of_toNat_eq
  rw [word_toNat w, word_toNat w', h1, h2, h3, h4, h5]

theorem deltaField_toNat (w : CommandWord) :
    (deltaField w).toNat = (hi8Field w).toNat * 2 ^ 24 + (addrField w).toNat * 2 ^ 8 + (lo8Field w).toNat := by
  simp only [deltaField, hi8Field, addrField, lo8Field, BitVec.extractLsb'_toNat, Nat.shiftRight_eq_div_pow]
  omega

@[simp] theorem opField_formatT (d : Delta) : opField (formatT d) = 0b00#2 := by
  apply BitVec.eq_of_toNat_eq
  have := d.isLt
  simp only [opField, BitVec.extractLsb'_toNat, formatT_toNat, Nat.shiftRight_eq_div_pow, BitVec.toNat_ofNat]
  omega

@[simp] theorem reservedField_formatT (d : Delta) : reservedField (formatT d) = 0#30 := by
  apply BitVec.eq_of_toNat_eq
  have := d.isLt
  simp only [reservedField, BitVec.extractLsb'_toNat, formatT_toNat, Nat.shiftRight_eq_div_pow, BitVec.toNat_ofNat]
  omega

@[simp] theorem deltaField_formatT (d : Delta) : deltaField (formatT d) = d := by
  apply BitVec.eq_of_toNat_eq
  have := d.isLt
  simp only [deltaField, BitVec.extractLsb'_toNat, formatT_toNat, Nat.shiftRight_eq_div_pow]
  omega

@[simp] theorem opField_formatR (a : Addr) : opField (formatR a) = 0b01#2 := by
  apply BitVec.eq_of_toNat_eq
  have := a.isLt
  simp only [opField, BitVec.extractLsb'_toNat, formatR_toNat, Nat.shiftRight_eq_div_pow, BitVec.toNat_ofNat]
  omega

@[simp] theorem reservedField_formatR (a : Addr) : reservedField (formatR a) = 0#30 := by
  apply BitVec.eq_of_toNat_eq
  have := a.isLt
  simp only [reservedField, BitVec.extractLsb'_toNat, formatR_toNat, Nat.shiftRight_eq_div_pow, BitVec.toNat_ofNat]
  omega

@[simp] theorem hi8Field_formatR (a : Addr) : hi8Field (formatR a) = 0#8 := by
  apply BitVec.eq_of_toNat_eq
  have := a.isLt
  simp only [hi8Field, BitVec.extractLsb'_toNat, formatR_toNat, Nat.shiftRight_eq_div_pow, BitVec.toNat_ofNat]
  omega

@[simp] theorem addrField_formatR (a : Addr) : addrField (formatR a) = a := by
  apply BitVec.eq_of_toNat_eq
  have := a.isLt
  simp only [addrField, BitVec.extractLsb'_toNat, formatR_toNat, Nat.shiftRight_eq_div_pow]
  omega

@[simp] theorem lo8Field_formatR (a : Addr) : lo8Field (formatR a) = 0#8 := by
  apply BitVec.eq_of_toNat_eq
  have := a.isLt
  simp only [lo8Field, BitVec.extractLsb'_toNat, formatR_toNat, Nat.shiftRight_eq_div_pow, BitVec.toNat_ofNat]
  omega

@[simp] theorem opField_formatW (a : Addr) (v : Byte) : opField (formatW a v) = 0b10#2 := by
  apply BitVec.eq_of_toNat_eq
  have := a.isLt; have := v.isLt
  simp only [opField, BitVec.extractLsb'_toNat, formatW_toNat, Nat.shiftRight_eq_div_pow, BitVec.toNat_ofNat]
  omega

@[simp] theorem reservedField_formatW (a : Addr) (v : Byte) : reservedField (formatW a v) = 0#30 := by
  apply BitVec.eq_of_toNat_eq
  have := a.isLt; have := v.isLt
  simp only [reservedField, BitVec.extractLsb'_toNat, formatW_toNat, Nat.shiftRight_eq_div_pow, BitVec.toNat_ofNat]
  omega

@[simp] theorem hi8Field_formatW (a : Addr) (v : Byte) : hi8Field (formatW a v) = 0#8 := by
  apply BitVec.eq_of_toNat_eq
  have := a.isLt; have := v.isLt
  simp only [hi8Field, BitVec.extractLsb'_toNat, formatW_toNat, Nat.shiftRight_eq_div_pow, BitVec.toNat_ofNat]
  omega

@[simp] theorem addrField_formatW (a : Addr) (v : Byte) : addrField (formatW a v) = a := by
  apply BitVec.eq_of_toNat_eq
  have := a.isLt; have := v.isLt
  simp only [addrField, BitVec.extractLsb'_toNat, formatW_toNat, Nat.shiftRight_eq_div_pow]
  omega

@[simp] theorem lo8Field_formatW (a : Addr) (v : Byte) : lo8Field (formatW a v) = v := by
  apply BitVec.eq_of_toNat_eq
  have := a.isLt; have := v.isLt
  simp only [lo8Field, BitVec.extractLsb'_toNat, formatW_toNat, Nat.shiftRight_eq_div_pow]
  omega

/-- What decides an address (R35), case by case. -/
theorem target_cases (a : Addr) :
    (Machine.target a = .vram ∧ 0x8000 ≤ a.toNat ∧ a.toNat ≤ 0x9FFF) ∨
    (Machine.target a = .regLcdc ∧ a = 0xFF40#16) ∨
    (Machine.target a = .regStat ∧ a = 0xFF41#16) ∨
    (Machine.target a = .regScy ∧ a = 0xFF42#16) ∨
    (Machine.target a = .regScx ∧ a = 0xFF43#16) ∨
    (Machine.target a = .regLy ∧ a = 0xFF44#16) ∨
    (Machine.target a = .regLyc ∧ a = 0xFF45#16) ∨
    (Machine.target a = .regBgp ∧ a = 0xFF47#16) ∨
    (Machine.target a = .unmapped ∧ ¬(0x8000 ≤ a.toNat ∧ a.toNat ≤ 0x9FFF) ∧ a ≠ 0xFF40#16 ∧ a ≠ 0xFF41#16 ∧
      a ≠ 0xFF42#16 ∧ a ≠ 0xFF43#16 ∧ a ≠ 0xFF44#16 ∧ a ≠ 0xFF45#16 ∧ a ≠ 0xFF47#16) := by
  by_cases hv : 0x8000 ≤ a.toNat ∧ a.toNat ≤ 0x9FFF
  · exact .inl ⟨if_pos hv, hv⟩
  by_cases h0 : a = 0xFF40#16
  · subst h0; decide
  by_cases h1 : a = 0xFF41#16
  · subst h1; decide
  by_cases h2 : a = 0xFF42#16
  · subst h2; decide
  by_cases h3 : a = 0xFF43#16
  · subst h3; decide
  by_cases h4 : a = 0xFF44#16
  · subst h4; decide
  by_cases h5 : a = 0xFF45#16
  · subst h5; decide
  by_cases h7 : a = 0xFF47#16
  · subst h7; decide
  have hu : Machine.target a = .unmapped := by
    unfold Machine.target
    rw [if_neg (by exact hv)]
    simp [Machine.regAddr, h0, h1, h2, h3, h4, h5, h7]
  simp [hu, hv, h0, h1, h2, h3, h4, h5, h7]

theorem readOf_wellFormed (a : Addr) : (readOf a).wellFormed = true := by
  unfold readOf; split <;> simp [Instr.wellFormed, *]

theorem writeOf_wellFormed (a : Addr) (v : Byte) : (writeOf a v).wellFormed = true := by
  unfold writeOf; split <;> simp [Instr.wellFormed, *]

end Sys2Proof
end

