-- ==== Sys2Proof/Laws/Memory.lean ====
section
/-! SUPPORT. The laws of VRAM cells: read after write, the canonical form is kept, and canonical contents that read
alike are equal. -/

namespace Sys2Proof.Machine

@[simp] theorem memRead_nil (k : Nat) : memRead [] k = 0x00#8 := rfl

theorem memRead_cons (i : Nat) (b : Byte) (m : Memory) (k : Nat) :
    memRead ((i, b) :: m) k = if i = k then b else memRead m k := rfl

theorem wfFrom_cons (lo i : Nat) (b : Byte) (m : Memory) :
    Memory.wfFrom lo ((i, b) :: m) = true ↔
      lo ≤ i ∧ i < 8192 ∧ b ≠ 0x00#8 ∧ Memory.wfFrom (i + 1) m = true := by
  simp only [Memory.wfFrom, Bool.and_eq_true, decide_eq_true_eq, bne_iff_ne, and_assoc]
  rfl

theorem wfFrom_mono {lo lo' : Nat} (m : Memory) (h : lo ≤ lo') (hm : Memory.wfFrom lo' m = true) :
    Memory.wfFrom lo m = true := by
  cases m with
  | nil => rfl
  | cons c m =>
    obtain ⟨i, b⟩ := c
    rw [wfFrom_cons] at hm ⊢
    exact ⟨h.trans hm.1, hm.2⟩

/-- Below its lower bound, canonical contents list nothing. -/
theorem memRead_below {lo k : Nat} (m : Memory) (hm : Memory.wfFrom lo m = true) (hk : k < lo) :
    memRead m k = 0x00#8 := by
  induction m generalizing lo with
  | nil => rfl
  | cons c m ih =>
    obtain ⟨i, b⟩ := c
    obtain ⟨h1, -, -, h4⟩ := (wfFrom_cons ..).1 hm
    rw [memRead_cons, if_neg (by omega)]
    exact ih h4 (by omega)

theorem memRead_memCons (k : Nat) (v : Byte) (m : Memory) (hm : Memory.wfFrom (k + 1) m = true) (j : Nat) :
    memRead (memCons k v m) j = if k = j then v else memRead m j := by
  unfold memCons
  split
  · split
    · subst_vars; exact memRead_below m hm (by omega)
    · rfl
  · rfl

theorem wfFrom_memCons {lo k : Nat} (v : Byte) (m : Memory) (hlo : lo ≤ k) (hk : k < 8192)
    (hm : Memory.wfFrom (k + 1) m = true) : Memory.wfFrom lo (memCons k v m) = true := by
  unfold memCons
  split
  · exact wfFrom_mono m (by omega) hm
  · exact (wfFrom_cons ..).2 ⟨hlo, hk, by assumption, hm⟩

theorem wfFrom_memWrite {lo k : Nat} (m : Memory) (v : Byte) (hm : Memory.wfFrom lo m = true) (hlo : lo ≤ k)
    (hk : k < 8192) : Memory.wfFrom lo (memWrite m k v) = true := by
  induction m generalizing lo with
  | nil => exact wfFrom_memCons v [] hlo hk rfl
  | cons c m ih =>
    obtain ⟨i, b⟩ := c
    obtain ⟨h1, h2, h3, h4⟩ := (wfFrom_cons ..).1 hm
    unfold memWrite
    split
    · exact wfFrom_memCons v _ hlo hk ((wfFrom_cons ..).2 ⟨by omega, h2, h3, h4⟩)
    · split
      · subst_vars; exact wfFrom_memCons v m hlo hk h4
      · exact (wfFrom_cons ..).2 ⟨h1, h2, h3, ih h4 (by omega)⟩

/-- The one memory operation keeps the canonical form. -/
theorem memWrite_wf {k : Nat} (m : Memory) (v : Byte) (hm : Memory.wf m = true) (hk : k < 8192) :
    Memory.wf (memWrite m k v) = true :=
  wfFrom_memWrite m v hm (Nat.zero_le k) hk

theorem memRead_memWrite_from {lo k : Nat} (m : Memory) (v : Byte) (hm : Memory.wfFrom lo m = true) (j : Nat) :
    memRead (memWrite m k v) j = if k = j then v else memRead m j := by
  induction m generalizing lo with
  | nil => exact memRead_memCons k v [] rfl j
  | cons c m ih =>
    obtain ⟨i, b⟩ := c
    obtain ⟨h1, h2, h3, h4⟩ := (wfFrom_cons ..).1 hm
    unfold memWrite
    split
    · exact memRead_memCons k v _ ((wfFrom_cons ..).2 ⟨by omega, h2, h3, h4⟩) j
    · split
      · subst_vars
        rw [memRead_memCons _ v m h4, memRead_cons]
        split <;> rfl
      · simp only [memRead_cons, ih h4]
        split <;> split <;> first | rfl | omega

/-- What a write does to every read. -/
theorem memRead_memWrite (m : Memory) (hm : Memory.wf m = true) (k : Nat) (v : Byte) (j : Nat) :
    memRead (memWrite m k v) j = if k = j then v else memRead m j :=
  memRead_memWrite_from m v hm j

theorem wfFrom_ext {lo : Nat} (m m' : Memory) (hm : Memory.wfFrom lo m = true) (hm' : Memory.wfFrom lo m' = true)
    (h : ∀ k, memRead m k = memRead m' k) : m = m' := by
  induction m generalizing lo m' with
  | nil =>
    cases m' with
    | nil => rfl
    | cons c m' =>
      obtain ⟨i, b⟩ := c
      have := h i
      simp [memRead_cons] at this
      exact absurd this.symm ((wfFrom_cons ..).1 hm').2.2.1
  | cons c m ih =>
    obtain ⟨i, b⟩ := c
    obtain ⟨h1, h2, h3, h4⟩ := (wfFrom_cons ..).1 hm
    cases m' with
    | nil =>
      have := h i
      simp [memRead_cons] at this
      exact absurd this h3
    | cons c' m' =>
      obtain ⟨i', b'⟩ := c'
      obtain ⟨g1, g2, g3, g4⟩ := (wfFrom_cons ..).1 hm'
      have hi := h i
      have hi' := h i'
      simp only [memRead_cons, if_true] at hi hi'
      have hii : i = i' := by
        by_contra hne
        rcases Nat.lt_or_gt_of_ne hne with hlt | hlt
        · rw [if_neg (by omega), memRead_below m' g4 (by omega)] at hi
          exact h3 hi
        · rw [if_neg (by omega), memRead_below m h4 (by omega)] at hi'
          exact g3 hi'.symm
      subst hii
      rw [if_pos rfl] at hi
      subst hi
      congr 1
      refine ih m' h4 g4 fun k => ?_
      by_cases hk : k ≤ i
      · rw [memRead_below m h4 (by omega), memRead_below m' g4 (by omega)]
      · have := h k
        rwa [memRead_cons, memRead_cons, if_neg (by omega), if_neg (by omega)] at this

/-- Canonical contents that read alike at every index are equal data. -/
theorem memory_ext (m m' : Memory) (hm : Memory.wf m = true) (hm' : Memory.wf m' = true)
    (h : ∀ k, memRead m k = memRead m' k) : m = m' :=
  wfFrom_ext m m' hm hm' h

theorem reset_vram_wf : Memory.wf State.reset.vram = true := rfl

/-- The index of every address is within VRAM. -/
theorem vramIndex_lt (addr : Addr) : vramIndex addr < 8192 := by
  have : vramIndex addr ≤ 0x1FFF := by
    simp only [vramIndex, Config.vramIndexMask, BitVec.toNat_and]
    exact Nat.and_le_right
  omega

theorem vramWrite_wf (addr : Addr) (v : Byte) (s : State) (hs : Memory.wf s.vram = true) :
    Memory.wf (vramWrite (vramIndex addr) v s).vram = true :=
  memWrite_wf s.vram v hs (vramIndex_lt addr)

end Sys2Proof.Machine
end

