-- ==== Sys2Proof/Laws/State.lean ====
section
/-! SUPPORT. One lemma per field per named update of State, so that no later proof unfolds an update. -/

namespace Sys2Proof.Machine

/-! ### vramWrite -/
@[simp] theorem vramWrite_vram (i : Nat) (v : Byte) (s : State) : (vramWrite i v s).vram = memWrite s.vram i v := rfl
@[simp] theorem vramWrite_mode (i : Nat) (v : Byte) (s : State) : (vramWrite i v s).mode = s.mode := rfl
@[simp] theorem vramWrite_clocks (i : Nat) (v : Byte) (s : State) : (vramWrite i v s).clocks = s.clocks := rfl
@[simp] theorem vramWrite_ly (i : Nat) (v : Byte) (s : State) : (vramWrite i v s).ly = s.ly := rfl
@[simp] theorem vramWrite_lyc (i : Nat) (v : Byte) (s : State) : (vramWrite i v s).lyc = s.lyc := rfl
@[simp] theorem vramWrite_scy (i : Nat) (v : Byte) (s : State) : (vramWrite i v s).scy = s.scy := rfl
@[simp] theorem vramWrite_scx (i : Nat) (v : Byte) (s : State) : (vramWrite i v s).scx = s.scx := rfl
@[simp] theorem vramWrite_bgp (i : Nat) (v : Byte) (s : State) : (vramWrite i v s).bgp = s.bgp := rfl
@[simp] theorem vramWrite_control (i : Nat) (v : Byte) (s : State) : (vramWrite i v s).control = s.control := rfl
@[simp] theorem vramWrite_statEn (i : Nat) (v : Byte) (s : State) : (vramWrite i v s).statEn = s.statEn := rfl
@[simp] theorem vramWrite_inputs (i : Nat) (v : Byte) (s : State) : (vramWrite i v s).inputs = s.inputs := rfl
@[simp] theorem vramWrite_rdata (i : Nat) (v : Byte) (s : State) : (vramWrite i v s).rdata = s.rdata := rfl
@[simp] theorem vramWrite_events (i : Nat) (v : Byte) (s : State) : (vramWrite i v s).events = s.events := rfl

/-! ### beginOp -/
@[simp] theorem beginOp_vram (s : State) : (beginOp s).vram = s.vram := rfl
@[simp] theorem beginOp_mode (s : State) : (beginOp s).mode = s.mode := rfl
@[simp] theorem beginOp_clocks (s : State) : (beginOp s).clocks = s.clocks := rfl
@[simp] theorem beginOp_ly (s : State) : (beginOp s).ly = s.ly := rfl
@[simp] theorem beginOp_lyc (s : State) : (beginOp s).lyc = s.lyc := rfl
@[simp] theorem beginOp_scy (s : State) : (beginOp s).scy = s.scy := rfl
@[simp] theorem beginOp_scx (s : State) : (beginOp s).scx = s.scx := rfl
@[simp] theorem beginOp_bgp (s : State) : (beginOp s).bgp = s.bgp := rfl
@[simp] theorem beginOp_control (s : State) : (beginOp s).control = s.control := rfl
@[simp] theorem beginOp_statEn (s : State) : (beginOp s).statEn = s.statEn := rfl
@[simp] theorem beginOp_inputs (s : State) : (beginOp s).inputs = s.inputs := rfl
@[simp] theorem beginOp_rdata (s : State) : (beginOp s).rdata = none := rfl
@[simp] theorem beginOp_events (s : State) : (beginOp s).events = [] := rfl

/-! ### answer -/
@[simp] theorem answer_vram (v : Byte) (s : State) : (answer v s).vram = s.vram := rfl
@[simp] theorem answer_mode (v : Byte) (s : State) : (answer v s).mode = s.mode := rfl
@[simp] theorem answer_clocks (v : Byte) (s : State) : (answer v s).clocks = s.clocks := rfl
@[simp] theorem answer_ly (v : Byte) (s : State) : (answer v s).ly = s.ly := rfl
@[simp] theorem answer_lyc (v : Byte) (s : State) : (answer v s).lyc = s.lyc := rfl
@[simp] theorem answer_scy (v : Byte) (s : State) : (answer v s).scy = s.scy := rfl
@[simp] theorem answer_scx (v : Byte) (s : State) : (answer v s).scx = s.scx := rfl
@[simp] theorem answer_bgp (v : Byte) (s : State) : (answer v s).bgp = s.bgp := rfl
@[simp] theorem answer_control (v : Byte) (s : State) : (answer v s).control = s.control := rfl
@[simp] theorem answer_statEn (v : Byte) (s : State) : (answer v s).statEn = s.statEn := rfl
@[simp] theorem answer_inputs (v : Byte) (s : State) : (answer v s).inputs = s.inputs := rfl
@[simp] theorem answer_rdata (v : Byte) (s : State) : (answer v s).rdata = some v := rfl
@[simp] theorem answer_events (v : Byte) (s : State) : (answer v s).events = [] := rfl

/-! ### emit -/
@[simp] theorem emit_vram (e : Event) (s : State) : (emit e s).vram = s.vram := rfl
@[simp] theorem emit_mode (e : Event) (s : State) : (emit e s).mode = s.mode := rfl
@[simp] theorem emit_clocks (e : Event) (s : State) : (emit e s).clocks = s.clocks := rfl
@[simp] theorem emit_ly (e : Event) (s : State) : (emit e s).ly = s.ly := rfl
@[simp] theorem emit_lyc (e : Event) (s : State) : (emit e s).lyc = s.lyc := rfl
@[simp] theorem emit_scy (e : Event) (s : State) : (emit e s).scy = s.scy := rfl
@[simp] theorem emit_scx (e : Event) (s : State) : (emit e s).scx = s.scx := rfl
@[simp] theorem emit_bgp (e : Event) (s : State) : (emit e s).bgp = s.bgp := rfl
@[simp] theorem emit_control (e : Event) (s : State) : (emit e s).control = s.control := rfl
@[simp] theorem emit_statEn (e : Event) (s : State) : (emit e s).statEn = s.statEn := rfl
@[simp] theorem emit_inputs (e : Event) (s : State) : (emit e s).inputs = s.inputs := rfl
@[simp] theorem emit_rdata (e : Event) (s : State) : (emit e s).rdata = s.rdata := rfl
@[simp] theorem emit_events (e : Event) (s : State) : (emit e s).events = s.events ++ [e] := rfl

/-! ### emitLycEdge -/
@[simp] theorem emitLycEdge_vram (b : Bool) (s : State) : (emitLycEdge b s).vram = s.vram := by unfold emitLycEdge; split <;> rfl
@[simp] theorem emitLycEdge_mode (b : Bool) (s : State) : (emitLycEdge b s).mode = s.mode := by unfold emitLycEdge; split <;> rfl
@[simp] theorem emitLycEdge_clocks (b : Bool) (s : State) : (emitLycEdge b s).clocks = s.clocks := by unfold emitLycEdge; split <;> rfl
@[simp] theorem emitLycEdge_ly (b : Bool) (s : State) : (emitLycEdge b s).ly = s.ly := by unfold emitLycEdge; split <;> rfl
@[simp] theorem emitLycEdge_lyc (b : Bool) (s : State) : (emitLycEdge b s).lyc = s.lyc := by unfold emitLycEdge; split <;> rfl
@[simp] theorem emitLycEdge_scy (b : Bool) (s : State) : (emitLycEdge b s).scy = s.scy := by unfold emitLycEdge; split <;> rfl
@[simp] theorem emitLycEdge_scx (b : Bool) (s : State) : (emitLycEdge b s).scx = s.scx := by unfold emitLycEdge; split <;> rfl
@[simp] theorem emitLycEdge_bgp (b : Bool) (s : State) : (emitLycEdge b s).bgp = s.bgp := by unfold emitLycEdge; split <;> rfl
@[simp] theorem emitLycEdge_control (b : Bool) (s : State) : (emitLycEdge b s).control = s.control := by unfold emitLycEdge; split <;> rfl
@[simp] theorem emitLycEdge_statEn (b : Bool) (s : State) : (emitLycEdge b s).statEn = s.statEn := by unfold emitLycEdge; split <;> rfl
@[simp] theorem emitLycEdge_inputs (b : Bool) (s : State) : (emitLycEdge b s).inputs = s.inputs := by unfold emitLycEdge; split <;> rfl
@[simp] theorem emitLycEdge_rdata (b : Bool) (s : State) : (emitLycEdge b s).rdata = s.rdata := by unfold emitLycEdge; split <;> rfl

/-! ### setLy -/
@[simp] theorem setLy_vram (v : BitVec 8) (s : State) : (setLy v s).vram = s.vram := by simp [setLy]
@[simp] theorem setLy_mode (v : BitVec 8) (s : State) : (setLy v s).mode = s.mode := by simp [setLy]
@[simp] theorem setLy_clocks (v : BitVec 8) (s : State) : (setLy v s).clocks = s.clocks := by simp [setLy]
@[simp] theorem setLy_ly (v : BitVec 8) (s : State) : (setLy v s).ly = v := by simp [setLy]
@[simp] theorem setLy_lyc (v : BitVec 8) (s : State) : (setLy v s).lyc = s.lyc := by simp [setLy]
@[simp] theorem setLy_scy (v : BitVec 8) (s : State) : (setLy v s).scy = s.scy := by simp [setLy]
@[simp] theorem setLy_scx (v : BitVec 8) (s : State) : (setLy v s).scx = s.scx := by simp [setLy]
@[simp] theorem setLy_bgp (v : BitVec 8) (s : State) : (setLy v s).bgp = s.bgp := by simp [setLy]
@[simp] theorem setLy_control (v : BitVec 8) (s : State) : (setLy v s).control = s.control := by simp [setLy]
@[simp] theorem setLy_statEn (v : BitVec 8) (s : State) : (setLy v s).statEn = s.statEn := by simp [setLy]
@[simp] theorem setLy_inputs (v : BitVec 8) (s : State) : (setLy v s).inputs = s.inputs := by simp [setLy]
@[simp] theorem setLy_rdata (v : BitVec 8) (s : State) : (setLy v s).rdata = s.rdata := by simp [setLy]

/-! ### setLyc -/
@[simp] theorem setLyc_vram (v : BitVec 8) (s : State) : (setLyc v s).vram = s.vram := by simp [setLyc]
@[simp] theorem setLyc_mode (v : BitVec 8) (s : State) : (setLyc v s).mode = s.mode := by simp [setLyc]
@[simp] theorem setLyc_clocks (v : BitVec 8) (s : State) : (setLyc v s).clocks = s.clocks := by simp [setLyc]
@[simp] theorem setLyc_ly (v : BitVec 8) (s : State) : (setLyc v s).ly = s.ly := by simp [setLyc]
@[simp] theorem setLyc_lyc (v : BitVec 8) (s : State) : (setLyc v s).lyc = v := by simp [setLyc]
@[simp] theorem setLyc_scy (v : BitVec 8) (s : State) : (setLyc v s).scy = s.scy := by simp [setLyc]
@[simp] theorem setLyc_scx (v : BitVec 8) (s : State) : (setLyc v s).scx = s.scx := by simp [setLyc]
@[simp] theorem setLyc_bgp (v : BitVec 8) (s : State) : (setLyc v s).bgp = s.bgp := by simp [setLyc]
@[simp] theorem setLyc_control (v : BitVec 8) (s : State) : (setLyc v s).control = s.control := by simp [setLyc]
@[simp] theorem setLyc_statEn (v : BitVec 8) (s : State) : (setLyc v s).statEn = s.statEn := by simp [setLyc]
@[simp] theorem setLyc_inputs (v : BitVec 8) (s : State) : (setLyc v s).inputs = s.inputs := by simp [setLyc]
@[simp] theorem setLyc_rdata (v : BitVec 8) (s : State) : (setLyc v s).rdata = s.rdata := by simp [setLyc]

/-! ### assertReset -/
@[simp] theorem assertReset_vram (s : State) : (assertReset s).vram = State.reset.vram := rfl
@[simp] theorem assertReset_mode (s : State) : (assertReset s).mode = State.reset.mode := rfl
@[simp] theorem assertReset_clocks (s : State) : (assertReset s).clocks = State.reset.clocks := rfl
@[simp] theorem assertReset_ly (s : State) : (assertReset s).ly = State.reset.ly := rfl
@[simp] theorem assertReset_lyc (s : State) : (assertReset s).lyc = State.reset.lyc := rfl
@[simp] theorem assertReset_scy (s : State) : (assertReset s).scy = State.reset.scy := rfl
@[simp] theorem assertReset_scx (s : State) : (assertReset s).scx = State.reset.scx := rfl
@[simp] theorem assertReset_bgp (s : State) : (assertReset s).bgp = State.reset.bgp := rfl
@[simp] theorem assertReset_control (s : State) : (assertReset s).control = State.reset.control := rfl
@[simp] theorem assertReset_statEn (s : State) : (assertReset s).statEn = State.reset.statEn := rfl
@[simp] theorem assertReset_inputs (s : State) : (assertReset s).inputs = s.inputs := rfl
@[simp] theorem assertReset_rdata (s : State) : (assertReset s).rdata = none := rfl
@[simp] theorem assertReset_events (s : State) : (assertReset s).events = [] := rfl

/-! ### idle -/
@[simp] theorem idle_vram (s : State) : (idle s).vram = s.vram := rfl
@[simp] theorem idle_mode (s : State) : (idle s).mode = s.mode := rfl
@[simp] theorem idle_clocks (s : State) : (idle s).clocks = s.clocks := rfl
@[simp] theorem idle_ly (s : State) : (idle s).ly = s.ly := rfl
@[simp] theorem idle_lyc (s : State) : (idle s).lyc = s.lyc := rfl
@[simp] theorem idle_scy (s : State) : (idle s).scy = s.scy := rfl
@[simp] theorem idle_scx (s : State) : (idle s).scx = s.scx := rfl
@[simp] theorem idle_bgp (s : State) : (idle s).bgp = s.bgp := rfl
@[simp] theorem idle_control (s : State) : (idle s).control = s.control := rfl
@[simp] theorem idle_statEn (s : State) : (idle s).statEn = s.statEn := rfl
@[simp] theorem idle_inputs (s : State) : (idle s).inputs = s.inputs := rfl
@[simp] theorem idle_rdata (s : State) : (idle s).rdata = none := rfl
@[simp] theorem idle_events (s : State) : (idle s).events = [] := rfl

/-! ### pushCommand -/
@[simp] theorem pushCommand_vram (w : CommandWord) (s : State) : (pushCommand w s).vram = s.vram := rfl
@[simp] theorem pushCommand_mode (w : CommandWord) (s : State) : (pushCommand w s).mode = s.mode := rfl
@[simp] theorem pushCommand_clocks (w : CommandWord) (s : State) : (pushCommand w s).clocks = s.clocks := rfl
@[simp] theorem pushCommand_ly (w : CommandWord) (s : State) : (pushCommand w s).ly = s.ly := rfl
@[simp] theorem pushCommand_lyc (w : CommandWord) (s : State) : (pushCommand w s).lyc = s.lyc := rfl
@[simp] theorem pushCommand_scy (w : CommandWord) (s : State) : (pushCommand w s).scy = s.scy := rfl
@[simp] theorem pushCommand_scx (w : CommandWord) (s : State) : (pushCommand w s).scx = s.scx := rfl
@[simp] theorem pushCommand_bgp (w : CommandWord) (s : State) : (pushCommand w s).bgp = s.bgp := rfl
@[simp] theorem pushCommand_control (w : CommandWord) (s : State) : (pushCommand w s).control = s.control := rfl
@[simp] theorem pushCommand_statEn (w : CommandWord) (s : State) : (pushCommand w s).statEn = s.statEn := rfl
@[simp] theorem pushCommand_inputs (w : CommandWord) (s : State) : (pushCommand w s).inputs = .command w :: s.inputs := rfl
@[simp] theorem pushCommand_rdata (w : CommandWord) (s : State) : (pushCommand w s).rdata = s.rdata := rfl
@[simp] theorem pushCommand_events (w : CommandWord) (s : State) : (pushCommand w s).events = s.events := rfl

/-! ### endOamScan -/
@[simp] theorem endOamScan_vram (s : State) : (endOamScan s).vram = s.vram := rfl
@[simp] theorem endOamScan_mode (s : State) : (endOamScan s).mode = .pixelTransfer := rfl
@[simp] theorem endOamScan_clocks (s : State) : (endOamScan s).clocks = s.clocks := rfl
@[simp] theorem endOamScan_ly (s : State) : (endOamScan s).ly = s.ly := rfl
@[simp] theorem endOamScan_lyc (s : State) : (endOamScan s).lyc = s.lyc := rfl
@[simp] theorem endOamScan_scy (s : State) : (endOamScan s).scy = s.scy := rfl
@[simp] theorem endOamScan_scx (s : State) : (endOamScan s).scx = s.scx := rfl
@[simp] theorem endOamScan_bgp (s : State) : (endOamScan s).bgp = s.bgp := rfl
@[simp] theorem endOamScan_control (s : State) : (endOamScan s).control = s.control := rfl
@[simp] theorem endOamScan_statEn (s : State) : (endOamScan s).statEn = s.statEn := rfl
@[simp] theorem endOamScan_inputs (s : State) : (endOamScan s).inputs = s.inputs := rfl
@[simp] theorem endOamScan_rdata (s : State) : (endOamScan s).rdata = s.rdata := rfl
@[simp] theorem endOamScan_events (s : State) : (endOamScan s).events = s.events := rfl

/-! ### endPixelTransfer -/
@[simp] theorem endPixelTransfer_vram (s : State) : (endPixelTransfer s).vram = s.vram := rfl
@[simp] theorem endPixelTransfer_mode (s : State) : (endPixelTransfer s).mode = .hBlank := rfl
@[simp] theorem endPixelTransfer_clocks (s : State) : (endPixelTransfer s).clocks = s.clocks := rfl
@[simp] theorem endPixelTransfer_ly (s : State) : (endPixelTransfer s).ly = s.ly := rfl
@[simp] theorem endPixelTransfer_lyc (s : State) : (endPixelTransfer s).lyc = s.lyc := rfl
@[simp] theorem endPixelTransfer_scy (s : State) : (endPixelTransfer s).scy = s.scy := rfl
@[simp] theorem endPixelTransfer_scx (s : State) : (endPixelTransfer s).scx = s.scx := rfl
@[simp] theorem endPixelTransfer_bgp (s : State) : (endPixelTransfer s).bgp = s.bgp := rfl
@[simp] theorem endPixelTransfer_control (s : State) : (endPixelTransfer s).control = s.control := rfl
@[simp] theorem endPixelTransfer_statEn (s : State) : (endPixelTransfer s).statEn = s.statEn := rfl
@[simp] theorem endPixelTransfer_inputs (s : State) : (endPixelTransfer s).inputs = s.inputs := rfl
@[simp] theorem endPixelTransfer_rdata (s : State) : (endPixelTransfer s).rdata = s.rdata := rfl
@[simp] theorem endPixelTransfer_events (s : State) : (endPixelTransfer s).events = s.events ++ [.hBlankEntered] := rfl

/-! ### leaveHBlank -/
@[simp] theorem leaveHBlank_vram (s : State) : (leaveHBlank s).vram = s.vram := by unfold leaveHBlank; split <;> rfl
@[simp] theorem leaveHBlank_clocks (s : State) : (leaveHBlank s).clocks = s.clocks := by unfold leaveHBlank; split <;> rfl
@[simp] theorem leaveHBlank_ly (s : State) : (leaveHBlank s).ly = s.ly := by unfold leaveHBlank; split <;> rfl
@[simp] theorem leaveHBlank_lyc (s : State) : (leaveHBlank s).lyc = s.lyc := by unfold leaveHBlank; split <;> rfl
@[simp] theorem leaveHBlank_scy (s : State) : (leaveHBlank s).scy = s.scy := by unfold leaveHBlank; split <;> rfl
@[simp] theorem leaveHBlank_scx (s : State) : (leaveHBlank s).scx = s.scx := by unfold leaveHBlank; split <;> rfl
@[simp] theorem leaveHBlank_bgp (s : State) : (leaveHBlank s).bgp = s.bgp := by unfold leaveHBlank; split <;> rfl
@[simp] theorem leaveHBlank_control (s : State) : (leaveHBlank s).control = s.control := by unfold leaveHBlank; split <;> rfl
@[simp] theorem leaveHBlank_statEn (s : State) : (leaveHBlank s).statEn = s.statEn := by unfold leaveHBlank; split <;> rfl
@[simp] theorem leaveHBlank_inputs (s : State) : (leaveHBlank s).inputs = s.inputs := by unfold leaveHBlank; split <;> rfl
@[simp] theorem leaveHBlank_rdata (s : State) : (leaveHBlank s).rdata = s.rdata := by unfold leaveHBlank; split <;> rfl

/-! ### leaveVBlankLine -/
@[simp] theorem leaveVBlankLine_vram (s : State) : (leaveVBlankLine s).vram = s.vram := by unfold leaveVBlankLine; split <;> rfl
@[simp] theorem leaveVBlankLine_clocks (s : State) : (leaveVBlankLine s).clocks = s.clocks := by unfold leaveVBlankLine; split <;> rfl
@[simp] theorem leaveVBlankLine_ly (s : State) : (leaveVBlankLine s).ly = s.ly := by unfold leaveVBlankLine; split <;> rfl
@[simp] theorem leaveVBlankLine_lyc (s : State) : (leaveVBlankLine s).lyc = s.lyc := by unfold leaveVBlankLine; split <;> rfl
@[simp] theorem leaveVBlankLine_scy (s : State) : (leaveVBlankLine s).scy = s.scy := by unfold leaveVBlankLine; split <;> rfl
@[simp] theorem leaveVBlankLine_scx (s : State) : (leaveVBlankLine s).scx = s.scx := by unfold leaveVBlankLine; split <;> rfl
@[simp] theorem leaveVBlankLine_bgp (s : State) : (leaveVBlankLine s).bgp = s.bgp := by unfold leaveVBlankLine; split <;> rfl
@[simp] theorem leaveVBlankLine_control (s : State) : (leaveVBlankLine s).control = s.control := by unfold leaveVBlankLine; split <;> rfl
@[simp] theorem leaveVBlankLine_statEn (s : State) : (leaveVBlankLine s).statEn = s.statEn := by unfold leaveVBlankLine; split <;> rfl
@[simp] theorem leaveVBlankLine_inputs (s : State) : (leaveVBlankLine s).inputs = s.inputs := by unfold leaveVBlankLine; split <;> rfl
@[simp] theorem leaveVBlankLine_rdata (s : State) : (leaveVBlankLine s).rdata = s.rdata := by unfold leaveVBlankLine; split <;> rfl

/-! ### endHBlank -/
@[simp] theorem endHBlank_vram (s : State) : (endHBlank s).vram = s.vram := by simp [endHBlank]
@[simp] theorem endHBlank_clocks (s : State) : (endHBlank s).clocks = s.clocks := by simp [endHBlank]
@[simp] theorem endHBlank_ly (s : State) : (endHBlank s).ly = s.ly + 1#8 := by simp [endHBlank]
@[simp] theorem endHBlank_lyc (s : State) : (endHBlank s).lyc = s.lyc := by simp [endHBlank]
@[simp] theorem endHBlank_scy (s : State) : (endHBlank s).scy = s.scy := by simp [endHBlank]
@[simp] theorem endHBlank_scx (s : State) : (endHBlank s).scx = s.scx := by simp [endHBlank]
@[simp] theorem endHBlank_bgp (s : State) : (endHBlank s).bgp = s.bgp := by simp [endHBlank]
@[simp] theorem endHBlank_control (s : State) : (endHBlank s).control = s.control := by simp [endHBlank]
@[simp] theorem endHBlank_statEn (s : State) : (endHBlank s).statEn = s.statEn := by simp [endHBlank]
@[simp] theorem endHBlank_inputs (s : State) : (endHBlank s).inputs = s.inputs := by simp [endHBlank]
@[simp] theorem endHBlank_rdata (s : State) : (endHBlank s).rdata = s.rdata := by simp [endHBlank]

/-! ### endVBlank -/
@[simp] theorem endVBlank_vram (s : State) : (endVBlank s).vram = s.vram := by simp [endVBlank]
@[simp] theorem endVBlank_clocks (s : State) : (endVBlank s).clocks = s.clocks := by simp [endVBlank]
@[simp] theorem endVBlank_ly (s : State) : (endVBlank s).ly = lyAfterVBlankLine s.ly := by simp [endVBlank]
@[simp] theorem endVBlank_lyc (s : State) : (endVBlank s).lyc = s.lyc := by simp [endVBlank]
@[simp] theorem endVBlank_scy (s : State) : (endVBlank s).scy = s.scy := by simp [endVBlank]
@[simp] theorem endVBlank_scx (s : State) : (endVBlank s).scx = s.scx := by simp [endVBlank]
@[simp] theorem endVBlank_bgp (s : State) : (endVBlank s).bgp = s.bgp := by simp [endVBlank]
@[simp] theorem endVBlank_control (s : State) : (endVBlank s).control = s.control := by simp [endVBlank]
@[simp] theorem endVBlank_statEn (s : State) : (endVBlank s).statEn = s.statEn := by simp [endVBlank]
@[simp] theorem endVBlank_inputs (s : State) : (endVBlank s).inputs = s.inputs := by simp [endVBlank]
@[simp] theorem endVBlank_rdata (s : State) : (endVBlank s).rdata = s.rdata := by simp [endVBlank]

/-! ### endPhase -/
@[simp] theorem endPhase_vram (s : State) : (endPhase s).vram = s.vram := by unfold endPhase; split <;> simp
@[simp] theorem endPhase_clocks (s : State) : (endPhase s).clocks = s.clocks := by unfold endPhase; split <;> simp
@[simp] theorem endPhase_lyc (s : State) : (endPhase s).lyc = s.lyc := by unfold endPhase; split <;> simp
@[simp] theorem endPhase_scy (s : State) : (endPhase s).scy = s.scy := by unfold endPhase; split <;> simp
@[simp] theorem endPhase_scx (s : State) : (endPhase s).scx = s.scx := by unfold endPhase; split <;> simp
@[simp] theorem endPhase_bgp (s : State) : (endPhase s).bgp = s.bgp := by unfold endPhase; split <;> simp
@[simp] theorem endPhase_control (s : State) : (endPhase s).control = s.control := by unfold endPhase; split <;> simp
@[simp] theorem endPhase_statEn (s : State) : (endPhase s).statEn = s.statEn := by unfold endPhase; split <;> simp
@[simp] theorem endPhase_inputs (s : State) : (endPhase s).inputs = s.inputs := by unfold endPhase; split <;> simp
@[simp] theorem endPhase_rdata (s : State) : (endPhase s).rdata = s.rdata := by unfold endPhase; split <;> simp

end Sys2Proof.Machine
end

