-- ==== Sys2Proof/Laws/Ops.lean ====
section
/-! SUPPORT. One lemma per shared operation that says everything it can do. -/

namespace Sys2Proof.Machine

@[simp] theorem lycEvents_self (b : Bool) : lycEvents b b = [] := by simp [lycEvents]

/-- The event of a change of the comparison, exactly where it changes (R64). -/
theorem emitLycEdge_eq (before : Bool) (s : State) :
    emitLycEdge before s = { s with events := s.events ++ lycEvents before (lycMatch s) } := by
  unfold emitLycEdge
  by_cases h : lycMatch s = before
  · simp [h]
  · rw [if_neg h, lycEvents, if_neg (Ne.symm h)]; rfl

/-- `SetLy` (R64): the new LY, and the event exactly where the comparison changes. -/
theorem setLy_eq (v : BitVec 8) (s : State) :
    setLy v s = { s with ly := v, events := s.events ++ lycEvents (s.ly == s.lyc) (v == s.lyc) } :=
  emitLycEdge_eq _ _

/-- `SetLyc` (R64). -/
theorem setLyc_eq (v : BitVec 8) (s : State) :
    setLyc v s = { s with lyc := v, events := s.events ++ lycEvents (s.ly == s.lyc) (s.ly == v) } :=
  emitLycEdge_eq _ _

theorem nextInput_nil (s : State) (h : s.inputs = []) : nextInput s = none := by simp [nextInput, h]

theorem nextInput_cons (s : State) (i : HostInput) (rest : List HostInput) (h : s.inputs = i :: rest) :
    nextInput s = some (i, { s with inputs := rest }) := by simp [nextInput, h]

/-- What a write of LCDC does by the edge of bit 7 (R83). -/
theorem lcdEdge_off (s : State) : lcdEdge true false s = { setLy 0#8 s with clocks := 0#9, mode := .hBlank } := rfl

theorem lcdEdge_on (s : State) :
    lcdEdge false true s = emit .oamEntered { setLy 0#8 s with clocks := 0#9, mode := .oamScan } := rfl

theorem lcdEdge_none (b : Bool) (s : State) : lcdEdge b b s = s := by cases b <;> rfl

/-- All that `lcdEdge` can do: an edge restarts the FSM at LY 0, clocks 0, in HBlank or OamScan; no edge, nothing. -/
theorem lcdEdge_cases (old new : Bool) (s : State) :
    (old = new ∧ lcdEdge old new s = s) ∨
    (old = true ∧ new = false ∧ lcdEdge old new s =
      { s with mode := .hBlank, ly := 0#8, clocks := 0#9,
               events := s.events ++ lycEvents (s.ly == s.lyc) (0#8 == s.lyc) }) ∨
    (old = false ∧ new = true ∧ lcdEdge old new s =
      { s with mode := .oamScan, ly := 0#8, clocks := 0#9,
               events := s.events ++ lycEvents (s.ly == s.lyc) (0#8 == s.lyc) ++ [.oamEntered] }) := by
  cases old <;> cases new
  · exact .inl ⟨rfl, lcdEdge_none ..⟩
  · exact .inr (.inr ⟨rfl, rfl, by rw [lcdEdge_on, setLy_eq]; rfl⟩)
  · exact .inr (.inl ⟨rfl, rfl, by rw [lcdEdge_off, setLy_eq]⟩)
  · exact .inl ⟨rfl, lcdEdge_none ..⟩

end Sys2Proof.Machine
end

