-- ==== Sys2Proof/Laws/PerInstr.lean ====
section
/-! SUPPORT. One law per constructor of Instr: no instruction's word has a reserved bit set or a reserved operation
(30_encoding.md R50 to R53, R57). -/

namespace Sys2Proof.Laws.ReservedClear

/-- `w[61:32] = 0` and `op ≠ 0b11` in every format; `w[31:24] = 0` in READ and WRITE; `w[7:0] = 0` in READ. -/
def Statement (i : Instr) : Prop :=
  reservedField (encode i) = 0#30 ∧ opField (encode i) ≠ 0b11#2 ∧
    (opField (encode i) ≠ 0b00#2 → hi8Field (encode i) = 0#8) ∧
    (opField (encode i) = 0b01#2 → lo8Field (encode i) = 0#8)

theorem tick (d : Delta) : Statement (.tick d) := by simp [Statement, encode]

theorem readVram (a : Addr) : Statement (.readVram a) := by simp [Statement, encode]

theorem readLcdc : Statement .readLcdc := by simp [Statement, encode]

theorem readStat : Statement .readStat := by simp [Statement, encode]

theorem readScy : Statement .readScy := by simp [Statement, encode]

theorem readScx : Statement .readScx := by simp [Statement, encode]

theorem readLy : Statement .readLy := by simp [Statement, encode]

theorem readLyc : Statement .readLyc := by simp [Statement, encode]

theorem readBgp : Statement .readBgp := by simp [Statement, encode]

theorem readUnmapped (a : Addr) : Statement (.readUnmapped a) := by simp [Statement, encode]

theorem writeVram (a : Addr) (v : Byte) : Statement (.writeVram a v) := by simp [Statement, encode]

theorem writeLcdc (v : Byte) : Statement (.writeLcdc v) := by simp [Statement, encode]

theorem writeStat (v : Byte) : Statement (.writeStat v) := by simp [Statement, encode]

theorem writeScy (v : Byte) : Statement (.writeScy v) := by simp [Statement, encode]

theorem writeScx (v : Byte) : Statement (.writeScx v) := by simp [Statement, encode]

theorem writeLy (v : Byte) : Statement (.writeLy v) := by simp [Statement, encode]

theorem writeLyc (v : Byte) : Statement (.writeLyc v) := by simp [Statement, encode]

theorem writeBgp (v : Byte) : Statement (.writeBgp v) := by simp [Statement, encode]

theorem writeUnmapped (a : Addr) (v : Byte) : Statement (.writeUnmapped a v) := by simp [Statement, encode]

end Sys2Proof.Laws.ReservedClear
end

