-- ==== Sys2Proof/Laws/Timing.lean ====
section
/-! SUPPORT. The phases and the loop of TICK: the budgets, what the end of each phase does, and the one principle for
what a TICK keeps. -/

namespace Sys2Proof.Machine

@[simp] theorem budget_oamScan : budget .oamScan = 80 := rfl
@[simp] theorem budget_pixelTransfer : budget .pixelTransfer = 172 := rfl
@[simp] theorem budget_hBlank : budget .hBlank = 204 := rfl
@[simp] theorem budget_vBlank : budget .vBlank = 456 := rfl

theorem budget_ge (m : Mode) : 80 ≤ budget m := by cases m <;> simp

theorem budget_le (m : Mode) : budget m ≤ 456 := by cases m <;> simp

theorem endPhase_oamScan (s : State) (h : s.mode = .oamScan) : endPhase s = { s with mode := .pixelTransfer } := by
  simp [endPhase, h, endOamScan]

theorem endPhase_pixelTransfer (s : State) (h : s.mode = .pixelTransfer) :
    endPhase s = { s with mode := .hBlank, events := s.events ++ [.hBlankEntered] } := by
  simp [endPhase, h, endPixelTransfer, emit]

theorem endPhase_hBlank (s : State) (h : s.mode = .hBlank) :
    endPhase s =
      if 144 ≤ (s.ly + 1#8).toNat then
        { s with mode := .vBlank, ly := s.ly + 1#8,
                 events := s.events ++ lycEvents (s.ly == s.lyc) (s.ly + 1#8 == s.lyc) ++ [.vBlankEntered] }
      else
        { s with mode := .oamScan, ly := s.ly + 1#8,
                 events := s.events ++ lycEvents (s.ly == s.lyc) (s.ly + 1#8 == s.lyc) ++ [.oamEntered] } := by
  simp only [endPhase, h, endHBlank, setLy_eq, leaveHBlank]
  rfl

theorem endPhase_vBlank (s : State) (h : s.mode = .vBlank) :
    endPhase s =
      if lyAfterVBlankLine s.ly = 0#8 then
        { s with mode := .oamScan, ly := 0#8,
                 events := s.events ++ lycEvents (s.ly == s.lyc) (0#8 == s.lyc) ++ [.oamEntered] ++ [.frameCompleted] }
      else
        { s with ly := lyAfterVBlankLine s.ly,
                 events := s.events ++ lycEvents (s.ly == s.lyc) (lyAfterVBlankLine s.ly == s.lyc) } := by
  simp only [endPhase, h, endVBlank, setLy_eq, leaveVBlankLine]
  split
  · rename_i h0
    simp [h0, emit]
  · rfl

@[simp] theorem lyAfterVBlankLine_toNat (ly : BitVec 8) :
    (lyAfterVBlankLine ly).toNat = if 154 ≤ ly.toNat + 1 then 0 else ly.toNat + 1 := by
  have := ly.isLt
  change (if 154 ≤ ly.toNat + 1 then 0#8 else BitVec.ofNat 8 (ly.toNat + 1)).toNat = _
  split
  · rfl
  · simp; omega

/-- What every phase end keeps, and the final store of `clocks`, a TICK keeps. -/
theorem tickLoop_keeps (P : State → Prop) (hEnd : ∀ s, P s → P (endPhase s))
    (hClocks : ∀ s (b : BitVec 9), P s → P { s with clocks := b }) (fuel c : Nat) (s : State) (h : P s) :
    P (tickLoop fuel c s) := by
  induction fuel generalizing c s with
  | zero => exact hClocks s _ h
  | succ fuel ih =>
    unfold tickLoop
    split
    · exact hClocks s _ h
    · exact ih _ _ (hEnd s h)

/-- A TICK writes `mode`, `clocks`, `ly` and its own events, and nothing else (R67). -/
theorem spendDots_frame (c : Nat) (s : State) :
    (spendDots c s).vram = s.vram ∧ (spendDots c s).lyc = s.lyc ∧ (spendDots c s).scy = s.scy ∧
      (spendDots c s).scx = s.scx ∧ (spendDots c s).bgp = s.bgp ∧ (spendDots c s).control = s.control ∧
      (spendDots c s).statEn = s.statEn ∧ (spendDots c s).inputs = s.inputs ∧ (spendDots c s).rdata = s.rdata := by
  refine tickLoop_keeps (fun t => t.vram = s.vram ∧ t.lyc = s.lyc ∧ t.scy = s.scy ∧ t.scx = s.scx ∧ t.bgp = s.bgp ∧
    t.control = s.control ∧ t.statEn = s.statEn ∧ t.inputs = s.inputs ∧ t.rdata = s.rdata)
    (fun t ht => ?_) (fun t b ht => ht) _ _ _ (by simp)
  simpa using ht

end Sys2Proof.Machine
end

