-- ==== Sys2Proof/Laws/Step.lean ====
section
/-! SUPPORT. Everything one operation and one step can do: the inversion lemmas that later proofs split on. -/

namespace Sys2Proof.Machine

/-- The state an operation leaves. -/
def afterInstr (i : Instr) (s : State) : State :=
  match exec i s with
  | .next t => t
  | .fault _ => s
  | .refused _ => s

/-- Every operation completes (60_exceptions.md R105). -/
theorem exec_eq (i : Instr) (s : State) : exec i s = .next (afterInstr i s) := by cases i <;> rfl

/-- Everything a step that answers a next state can have done. -/
theorem step_cases {s t : State} (h : step s = .next t) :
    (s.inputs = [] ∧ t = beginOp s) ∨
    (∃ rest, s.inputs = .reset :: rest ∧ t = { State.reset with inputs := rest }) ∨
    (∃ w rest i, s.inputs = .command w :: rest ∧ decode w = .ok i ∧ t = afterInstr i { s with inputs := rest }) := by
  cases hi : s.inputs with
  | nil =>
    refine .inl ⟨rfl, ?_⟩
    simp only [step, nextInput_nil s hi] at h
    exact (Host.Outcome.next.inj h).symm
  | cons input rest =>
    refine .inr ?_
    simp only [step, nextInput_cons s input rest hi] at h
    cases input with
    | reset => exact .inl ⟨rest, rfl, (Host.Outcome.next.inj h).symm⟩
    | command w =>
      refine .inr ⟨w, rest, ?_⟩
      cases hd : decode w with
      | error e => simp [hd] at h
      | ok i =>
        simp only [hd, exec_eq] at h
        exact ⟨i, rfl, rfl, (Host.Outcome.next.inj h).symm⟩

end Sys2Proof.Machine
end

