-- ==== Sys2Proof/Tests/Slice0.lean ====
section
/-! SUPPORT. The row's own tests. Expected values come from spec/: the opcode table and R50 to R53 for the words, the
vectors of 95_test_vectors.md (named in each test) for the steps. Then, for every statement with hypotheses, a witness
that meets them together, clause by clause at the boundary values. -/

namespace Sys2Proof.Tests

open Sys2Proof.Machine

/-- The reset state at another sequencer position (95_test_vectors.md, Notation). -/
def atPos (mode : Mode) (ly clocks : Nat) : State :=
  { State.reset with mode := mode, ly := BitVec.ofNat 8 ly, clocks := BitVec.ofNat 9 clocks }

/-- The state an operation leaves. -/
def after (i : Instr) (s : State) : Option State :=
  match exec i s with
  | .next t => some t
  | .fault _ => none
  | .refused _ => none

/-- The state a step leaves. -/
def afterStep (s : State) : Option State :=
  match step s with
  | .next t => some t
  | .fault _ => none
  | .refused _ => none

/-- Why a step is refused. -/
def refusalReason (s : State) : Option Refusal :=
  match step s with
  | .next _ => none
  | .fault _ => none
  | .refused r => some r

/-- What a test looks at: mode, LY, clocks, read data, events. -/
def seen (s : State) : Mode × Nat × Nat × Option Byte × List Event :=
  (s.mode, s.ly.toNat, s.clocks.toNat, s.rdata, s.events)

/-! ### Well-formedness: one ill-formed term for each check -/

theorem test_wf_readVram_below_window : (Instr.readVram 0x7FFF#16).wellFormed = false := by decide
theorem test_wf_readVram_above_window : (Instr.readVram 0xA000#16).wellFormed = false := by decide
theorem test_wf_readUnmapped_register : (Instr.readUnmapped 0xFF47#16).wellFormed = false := by decide
theorem test_wf_writeVram_above_window : (Instr.writeVram 0xA000#16 0x33#8).wellFormed = false := by decide
theorem test_wf_writeUnmapped_vram : (Instr.writeUnmapped 0x8000#16 0x33#8).wellFormed = false := by decide
theorem test_wf_window_ends :
    (Instr.readVram 0x8000#16).wellFormed = true ∧ (Instr.writeVram 0x9FFF#16 0x5A#8).wellFormed = true := by decide
theorem test_wf_unmapped_inside_io : (Instr.readUnmapped 0xFF46#16).wellFormed = true := by decide

/-! ### The address decode at every boundary of R35 and R36 -/

theorem test_target_boundaries :
    [0x0000#16, 0x7FFF#16, 0xA000#16, 0xFF3F#16, 0xFF46#16, 0xFF48#16, 0xFFFF#16].map target =
      List.replicate 7 .unmapped ∧
    [0x8000#16, 0x9FFF#16].map target = [.vram, .vram] ∧
    [0xFF40#16, 0xFF41#16, 0xFF42#16, 0xFF43#16, 0xFF44#16, 0xFF45#16, 0xFF47#16].map target =
      [.regLcdc, .regStat, .regScy, .regScx, .regLy, .regLyc, .regBgp] := by decide

/-! ### Decoding: a word for every row, written out from the spec's formats, and the refusals -/

theorem test_decode_tick : decodeTableWord 64 0x00000000000001C8 = some (.tick 456#32) := by decide
theorem test_decode_readVram : decodeTableWord 64 0x40000000009FFF00 = some (.readVram 0x9FFF#16) := by decide
theorem test_decode_readLcdc : decodeTableWord 64 0x4000000000FF4000 = some .readLcdc := by decide
theorem test_decode_readStat : decodeTableWord 64 0x4000000000FF4100 = some .readStat := by decide
theorem test_decode_readScy : decodeTableWord 64 0x4000000000FF4200 = some .readScy := by decide
theorem test_decode_readScx : decodeTableWord 64 0x4000000000FF4300 = some .readScx := by decide
theorem test_decode_readLy : decodeTableWord 64 0x4000000000FF4400 = some .readLy := by decide
theorem test_decode_readLyc : decodeTableWord 64 0x4000000000FF4500 = some .readLyc := by decide
theorem test_decode_readBgp : decodeTableWord 64 0x4000000000FF4700 = some .readBgp := by decide
theorem test_decode_readUnmapped : decodeTableWord 64 0x4000000000A00000 = some (.readUnmapped 0xA000#16) := by decide
theorem test_decode_writeVram : decodeTableWord 64 0x80000000008000AB = some (.writeVram 0x8000#16 0xAB#8) := by decide
theorem test_decode_writeLcdc : decodeTableWord 64 0x8000000000FF4091 = some (.writeLcdc 0x91#8) := by decide
theorem test_decode_writeStat : decodeTableWord 64 0x8000000000FF4140 = some (.writeStat 0x40#8) := by decide
theorem test_decode_writeScy : decodeTableWord 64 0x8000000000FF4210 = some (.writeScy 0x10#8) := by decide
theorem test_decode_writeScx : decodeTableWord 64 0x8000000000FF4308 = some (.writeScx 0x08#8) := by decide
theorem test_decode_writeLy : decodeTableWord 64 0x8000000000FF4455 = some (.writeLy 0x55#8) := by decide
theorem test_decode_writeLyc : decodeTableWord 64 0x8000000000FF45FF = some (.writeLyc 0xFF#8) := by decide
theorem test_decode_writeBgp : decodeTableWord 64 0x8000000000FF47E4 = some (.writeBgp 0xE4#8) := by decide
theorem test_decode_writeUnmapped : decodeTableWord 64 0x8000000000FF4612 = some (.writeUnmapped 0xFF46#16 0x12#8) := by decide

/-- 95_test_vectors.md W9 to W15, in order. -/
theorem test_decode_refusals :
    decode 0xC000000000000000#64 = .error .reservedOp ∧
    decode 0x0000000100000000#64 = .error .reservedBitsSet ∧
    decode 0xC000000100000000#64 = .error .reservedBitsSet ∧
    decode 0x4000000001FF4400#64 = .error .reservedBitsSet ∧
    decode 0x4000000000FF4401#64 = .error .reservedBitsSet ∧
    decode 0x8000000001FF4400#64 = .error .reservedBitsSet ∧
    decode 0x2000000000000000#64 = .error .reservedBitsSet := by
  refine ⟨rfl, rfl, rfl, rfl, rfl, rfl, rfl⟩

theorem test_decode_no_longer_word : decodeTableWord 65 0 = none := by decide

/-! ### Steps (95_test_vectors.md) -/

/-- T14. -/
theorem test_tick_frame_end : (after (.tick 1#32) (atPos .vBlank 153 455)).map seen =
    some (.oamScan, 0, 0, none, [.lycMatchChanged true, .oamEntered, .frameCompleted]) := by decide

/-- T22: the transient 154 is never compared. -/
theorem test_tick_no_transient_154 :
    (after (.tick 456#32) { atPos .vBlank 153 0 with lyc := 153#8 }).map seen =
      some (.oamScan, 0, 0, none, [.lycMatchChanged false, .oamEntered, .frameCompleted]) := by decide

/-- V3: the gate is closed. -/
theorem test_readVram_closed :
    (after (.readVram 0x8000#16) { atPos .pixelTransfer 0 0 with vram := [(0, 0x11#8)] }).map seen =
      some (.pixelTransfer, 0, 0, some 0xFF#8, []) := by decide

/-- V4: the gate is open again. -/
theorem test_readVram_open :
    (after (.readVram 0x8000#16) { atPos .hBlank 0 0 with vram := [(0, 0x11#8)] }).map seen =
      some (.hBlank, 0, 0, some 0x11#8, []) := by decide

/-- V2: the top of the window. -/
theorem test_writeVram_top : (after (.writeVram 0x9FFF#16 0x5A#8) State.reset).map State.vram =
    some [(0x1FFF, 0x5A#8)] := by decide

/-- Writing what an unlisted byte reads as removes the cell (log 6). -/
theorem test_writeVram_zero_removes_cell :
    (after (.writeVram 0x8001#16 0x00#8) { State.reset with vram := [(0, 1#8), (1, 2#8), (2, 3#8)] }).map State.vram =
      some [(0, 1#8), (2, 3#8)] := by decide

/-- SC6: LCD off from (PixelTransfer, LY 77). -/
theorem test_writeLcdc_off :
    (after (.writeLcdc 0x00#8) { atPos .pixelTransfer 77 5 with control := 0x91#8 }).map seen =
      some (.hBlank, 0, 0, none, [.lycMatchChanged true]) := by decide

/-- L4: LCD on where the mode was already OamScan. -/
theorem test_writeLcdc_on : (after (.writeLcdc 0x80#8) (atPos .oamScan 1 0)).map seen =
    some (.oamScan, 0, 0, none, [.lycMatchChanged true, .oamEntered]) := by decide

/-- S4. -/
theorem test_readStat_mode3 :
    (after .readStat { atPos .pixelTransfer 0 0 with statEn := 0b1000#4 }).bind State.rdata = some 0x47#8 := by decide

/-- S5. -/
theorem test_readStat_vblank :
    (after .readStat { atPos .vBlank 150 0 with statEn := 0b1111#4 }).bind State.rdata = some 0x79#8 := by decide

/-- S2: bit 7 is dropped. -/
theorem test_writeStat_all : (after (.writeStat 0xFF#8) State.reset).map statByte = some 0x7C#8 := by decide

/-- S6: the second write clears the enables. -/
theorem test_writeStat_clears :
    (after (.writeStat 0x80#8) { State.reset with statEn := 0b0101#4 }).map statByte = some 0x04#8 := by decide

/-- Q1, Q4, B1: the value read is the register's own. -/
theorem test_reads_keep_apart :
    let s := { State.reset with scy := 0x10#8, scx := 0x07#8, bgp := 0xE4#8, lyc := 0xC8#8, control := 0x91#8, ly := 3#8 }
    [(after .readScy s).bind State.rdata, (after .readScx s).bind State.rdata, (after .readBgp s).bind State.rdata,
      (after .readLyc s).bind State.rdata, (after .readLcdc s).bind State.rdata, (after .readLy s).bind State.rdata] =
      [some 0x10#8, some 0x07#8, some 0xE4#8, some 0xC8#8, some 0x91#8, some 0x03#8] := by decide

/-- Q2: not gated by mode. -/
theorem test_writeScy_in_pixelTransfer :
    (after (.writeScy 0xFF#8) (atPos .pixelTransfer 0 0)).map State.scy = some 0xFF#8 := by decide

theorem test_writeScx : (after (.writeScx 0x07#8) State.reset).map State.scx = some 0x07#8 := by decide

theorem test_writeBgp : (after (.writeBgp 0x1B#8) State.reset).map State.bgp = some 0x1B#8 := by decide

/-- Y1. -/
theorem test_writeLy_ignored : after (.writeLy 0x55#8) (atPos .oamScan 3 0) = some (atPos .oamScan 3 0) := by decide

/-- Y2. -/
theorem test_writeLyc_mismatch :
    (after (.writeLyc 0x05#8) State.reset).map seen = some (.hBlank, 0, 0, none, [.lycMatchChanged false]) := by decide

/-- Y3: the value LYC already holds emits nothing. -/
theorem test_writeLyc_same :
    (after (.writeLyc 0x05#8) { State.reset with lyc := 0x05#8 }).map State.events = some [] := by decide

/-- 95_test_vectors.md section 2.4. -/
theorem test_unmapped : after (.writeUnmapped 0xFF46#16 0x12#8) State.reset = some State.reset ∧
    (after (.readUnmapped 0xFF46#16) State.reset).bind State.rdata = some 0xFF#8 := by decide

/-- Reset of a running block (R127) leaves the inputs that wait. -/
theorem test_step_reset :
    afterStep { atPos .vBlank 150 7 with control := 0x91#8, vram := [(3, 9#8)], inputs := [.reset, .command 5#64] } =
      some { State.reset with inputs := [.command 5#64] } := by decide

theorem test_step_refused : refusalReason { State.reset with inputs := [.command 0xC000000000000000#64] } =
    some .reservedOp := by decide

theorem test_step_withFetchWord : (afterStep (State.reset.withFetchWord 64 0x4000000000FF4100)).bind State.rdata =
    some 0x04#8 := by decide

/-- P1's first three lines, parsed and placed. -/
theorem test_parseProgram :
    parseProgram "write_byte(0xFF47, 0xE4)\nread_byte(STAT) -- look\ntick(0x50)".toList =
      some [.writeByte 0xFF47#16 0xE4#8, .readByte 0xFF41#16, .tick 80#32] := by decide

/-! ### Witnesses: the hypotheses of each statement, met together -/

theorem witness_DecodeOfEncode :
    (Instr.tick 0xFFFFFFFF#32).wellFormed = true ∧ (Instr.readVram 0x9FFF#16).wellFormed = true ∧
    (Instr.writeUnmapped 0xFF48#16 0xFF#8).wellFormed = true := by decide

theorem witness_EncodeOfDecode : decode 0x80000000009FFFFF#64 = .ok (.writeVram 0x9FFF#16 0xFF#8) := rfl

theorem witness_VramIndexIsBijection :
    target 0x8000#16 = .vram ∧ vramIndex 0x8000#16 = 0 ∧ target 0x9FFF#16 = .vram ∧ vramIndex 0x9FFF#16 = 8191 := by
  decide

theorem witness_StepRunsDecodedCommand :
    (State.reset.withFetchWord 64 0x4000000000FF4400).inputs = .command 0x4000000000FF4400#64 :: [] ∧
    decode 0x4000000000FF4400#64 = .ok .readLy := ⟨rfl, rfl⟩

theorem witness_StepRefusesReservedWord_op :
    ({ State.reset with inputs := [.command 0xC000000000000000#64] } : State).inputs =
      .command 0xC000000000000000#64 :: [] ∧ decode 0xC000000000000000#64 = .error .reservedOp := ⟨rfl, rfl⟩

theorem witness_StepRefusesReservedWord_bits :
    ({ State.reset with inputs := [.command 0x0000000100000000#64] } : State).inputs =
      .command 0x0000000100000000#64 :: [] ∧ decode 0x0000000100000000#64 = .error .reservedBitsSet := ⟨rfl, rfl⟩

theorem witness_StepRunsPlacedWord : decodeTableWord 64 0x00000000FFFFFFFF = some (.tick 0xFFFFFFFF#32) := by decide

theorem witness_ResetInputRestoresReset :
    ({ atPos .vBlank 150 7 with inputs := [.reset] } : State).inputs = .reset :: [] := rfl

theorem witness_IdleStepKeepsStorage : (atPos .vBlank 150 7).inputs = [] := rfl

theorem witness_OperationsNeverFail_completes :
    ({ atPos .pixelTransfer 0 171 with inputs := [.command 0x4000000000FF4400#64, .reset] } : State).inputs =
      .command 0x4000000000FF4400#64 :: [.reset] ∧ decode 0x4000000000FF4400#64 = .ok .readLy := ⟨rfl, rfl⟩

theorem witness_OperationsNeverFail_refused :
    step { State.reset with inputs := [.command 0xC000000000000000#64] } = .refused .reservedOp := rfl

theorem witness_StepKeepsInvariants :
    (State.reset.withFetchWord 64 456).Inv ∧
    step (State.reset.withFetchWord 64 456) =
      .next { State.reset with ly := 1#8, events := [.lycMatchChanged false, .oamEntered, .hBlankEntered] } :=
  ⟨by decide, rfl⟩

theorem witness_LegalInputsRunOn :
    ({ atPos .vBlank 153 455 with inputs := [.command 1#64, .reset] } : State).Inv ∧
    ∀ x ∈ [HostInput.command 1#64, .reset], legalInput x = true := by decide

/-- The invariant holds at the ends of every phase (used by every statement that assumes it). -/
theorem witness_Inv_boundaries :
    (atPos .oamScan 143 79).Inv ∧ (atPos .pixelTransfer 143 171).Inv ∧ (atPos .hBlank 143 203).Inv ∧
    (atPos .vBlank 144 0).Inv ∧ (atPos .vBlank 153 455).Inv ∧
    ({ State.reset with vram := [(0, 0xFF#8), (8191, 1#8)] } : State).Inv := by decide

/-- The invariant rules states out: VBlank at LY 143, clocks at the budget, LY 154, a VRAM cell that holds 0x00. -/
theorem test_Inv_refuses :
    ¬(atPos .vBlank 143 0).Inv ∧ ¬(atPos .hBlank 0 204).Inv ∧ ¬(atPos .vBlank 154 0).Inv ∧
    ¬({ State.reset with vram := [(0, 0x00#8)] } : State).Inv := by decide

theorem witness_ReadsReturnStoredRegisters :
    exec (.writeLcdc 0x7F#8) State.reset = .next { State.reset with control := 0x7F#8 } ∧
    exec (.writeLyc 0x00#8) State.reset = .next State.reset ∧ (atPos .vBlank 153 455).Inv :=
  ⟨rfl, rfl, by decide⟩

theorem witness_StatShowsModeCode :
    (atPos .hBlank 0 0).mode = .hBlank ∧ (atPos .vBlank 144 0).mode = .vBlank ∧
    (atPos .oamScan 0 0).mode = .oamScan ∧ (atPos .pixelTransfer 0 0).mode = .pixelTransfer := by decide

theorem witness_UnmappedReadsReturnFF :
    target 0x7FFF#16 = .unmapped ∧ target 0xA000#16 = .unmapped ∧ target 0xFF3F#16 = .unmapped := by decide

theorem witness_LcdcWriteByEdge :
    ((0x80#8 : Byte).getLsbD 7 = true ∧ (0x7F#8 : Byte).getLsbD 7 = false) ∧
    (State.reset.control.getLsbD 7 = false ∧ (0x80#8 : Byte).getLsbD 7 = true) ∧
    State.reset.control.getLsbD 7 = (0x7F#8 : Byte).getLsbD 7 := by decide

theorem witness_LcdcEdgeRestartsFsm :
    (0x80#8 : Byte).getLsbD 7 ≠ State.reset.control.getLsbD 7 ∧
    (0x7F#8 : Byte).getLsbD 7 = State.reset.control.getLsbD 7 := by decide

theorem witness_LycWriteRecomputesMatch : (atPos .vBlank 153 0).Inv ∧ 154 ≤ (154#8 : Byte).toNat := by decide

theorem witness_PolicyRejectionsAreSilent : (atPos .pixelTransfer 0 0).mode = .pixelTransfer := rfl

theorem witness_WritesAreIdempotent :
    Memory.wf ({ State.reset with vram := [(0, 1#8), (8191, 0xFF#8)] } : State).vram = true := by decide

theorem witness_RegistersChangedOnlyByOwnWrite :
    (after (.writeLcdc 1#8) State.reset).map State.control ≠ some State.reset.control ∧
    (after (.writeStat 0xFF#8) State.reset).map State.statEn ≠ some State.reset.statEn ∧
    (after (.writeScy 1#8) State.reset).map State.scy ≠ some State.reset.scy ∧
    (after (.writeScx 1#8) State.reset).map State.scx ≠ some State.reset.scx ∧
    (after (.writeLyc 1#8) State.reset).map State.lyc ≠ some State.reset.lyc ∧
    (after (.writeBgp 1#8) State.reset).map State.bgp ≠ some State.reset.bgp := by decide

theorem witness_SequencerMovedOnlyByTickOrLcdcEdge :
    (after (.tick 1#32) State.reset).map State.clocks ≠ some State.reset.clocks ∧
    (after (.writeLcdc 0x80#8) State.reset).map State.mode ≠ some State.reset.mode := by decide

theorem witness_OnlyTheseOperationsEmit :
    (after (.tick 204#32) State.reset).map State.events ≠ some [] ∧
    (after (.writeLcdc 0x80#8) State.reset).map State.events ≠ some [] ∧
    (after (.writeLyc 5#8) State.reset).map State.events ≠ some [] := by decide

theorem witness_VramReadThroughGate :
    target 0x8000#16 = .vram ∧ target 0x9FFF#16 = .vram ∧ (atPos .pixelTransfer 0 0).mode = .pixelTransfer ∧
    (atPos .hBlank 0 0).mode ≠ .pixelTransfer := by decide

theorem witness_VramWriteThroughGate :
    target 0x9FFF#16 = .vram ∧ Memory.wf (atPos .pixelTransfer 0 0).vram = true ∧
    Memory.wf ({ atPos .vBlank 144 0 with vram := [(8191, 1#8)] } : State).vram = true ∧
    (atPos .pixelTransfer 0 0).mode = .pixelTransfer ∧ (atPos .vBlank 144 0).mode ≠ .pixelTransfer := by decide

theorem witness_VramChangedOnlyByOpenWrite :
    exec (.writeVram 0x8000#16 1#8) (atPos .pixelTransfer 0 0) = .next (atPos .pixelTransfer 0 0) ∧
    (atPos .pixelTransfer 0 0).mode = .pixelTransfer := ⟨rfl, rfl⟩

/-- I2a's shape: written in OamScan, a TICK through PixelTransfer and a write of another index between. -/
theorem witness_VramReadAfterWrite :
    Memory.wf (atPos .oamScan 0 0).vram = true ∧ target 0x8123#16 = .vram ∧
    (atPos .oamScan 0 0).mode ≠ .pixelTransfer ∧
    exec (.writeVram 0x8123#16 0x44#8) (atPos .oamScan 0 0) = .next { atPos .oamScan 0 0 with vram := [(0x123, 0x44#8)] } ∧
    vramIndex 0x8124#16 ≠ vramIndex 0x8123#16 ∧
    (runInstrs [.writeVram 0x8124#16 1#8, .tick 252#32] { atPos .oamScan 0 0 with vram := [(0x123, 0x44#8)] }).map
      State.mode = some .hBlank :=
  ⟨by decide, by decide, by decide, rfl, by decide, by decide⟩

theorem witness_PhaseEndsFollowTable :
    ((atPos .oamScan 143 0).mode = .oamScan) ∧ ((atPos .pixelTransfer 143 0).mode = .pixelTransfer) ∧
    ((atPos .hBlank 142 0).mode = .hBlank ∧ (atPos .hBlank 142 0).ly.toNat < 143) ∧
    ((atPos .hBlank 143 0).mode = .hBlank ∧ (atPos .hBlank 143 0).ly.toNat = 143) ∧
    ((atPos .vBlank 144 0).mode = .vBlank ∧ 144 ≤ (atPos .vBlank 144 0).ly.toNat ∧ (atPos .vBlank 144 0).ly.toNat < 153) ∧
    ((atPos .vBlank 152 0).mode = .vBlank ∧ 144 ≤ (atPos .vBlank 152 0).ly.toNat ∧ (atPos .vBlank 152 0).ly.toNat < 153) ∧
    ((atPos .vBlank 153 0).mode = .vBlank ∧ (atPos .vBlank 153 0).ly.toNat = 153) := by decide

theorem witness_TickIsAdditive :
    (1#32 : Delta).toNat + (0xFFFFFFFE#32 : Delta).toNat < 2 ^ 32 ∧
    exec (.tick 204#32) State.reset =
      .next { State.reset with mode := .oamScan, ly := 1#8, events := [.lycMatchChanged false, .oamEntered] } ∧
    exec (.tick 80#32)
        { State.reset with mode := .oamScan, ly := 1#8, events := [.lycMatchChanged false, .oamEntered] } =
      .next { State.reset with mode := .pixelTransfer, ly := 1#8 } := ⟨by decide, rfl, rfl⟩

theorem witness_TickReadsOnlyTheSequencerAndLyc :
    let s := State.reset
    let s' := { State.reset with control := 0x91#8, vram := [(0, 1#8)], scy := 3#8 }
    s'.mode = s.mode ∧ s'.clocks = s.clocks ∧ s'.ly = s.ly ∧ s'.lyc = s.lyc ∧ s' ≠ s := by decide

theorem witness_VisibleLineTimeline :
    (atPos .oamScan 143 0).mode = .oamScan ∧ (atPos .oamScan 143 0).clocks = 0#9 ∧
    (atPos .oamScan 143 0).ly.toNat ≤ 143 ∧ (456#32 : Delta).toNat ≤ 456 := by decide

/-- Each clause of the timeline at both ends of its range. -/
theorem test_timeline_boundaries :
    [79, 80, 251, 252, 455, 456].map (fun k => (after (.tick (BitVec.ofNat 32 k)) (atPos .oamScan 143 0)).map
      fun t => (t.mode, t.clocks.toNat, t.ly.toNat)) =
      [some (.oamScan, 79, 143), some (.pixelTransfer, 0, 143), some (.pixelTransfer, 171, 143),
        some (.hBlank, 0, 143), some (.hBlank, 203, 143), some (.vBlank, 0, 144)] := by decide

/-- A state as far as the invariant lets it be, for a TICK of nothing and one of everything. -/
theorem witness_TickZeroChangesNothing : (atPos .vBlank 153 455).Inv := by decide

theorem witness_TickAdvancesFramePosition : (atPos .pixelTransfer 0 171).Inv := by decide

theorem witness_VBlankEnteredWhenLyBecomes144 :
    (atPos .hBlank 143 203).Inv ∧ (atPos .hBlank 143 203).ly = 143#8 := by decide

theorem witness_FramePositionIsFaithful :
    (atPos .vBlank 153 455).Inv ∧ framePosition (atPos .vBlank 153 455) = 70223 ∧
    framePosition (atPos .vBlank 153 455) = framePosition { atPos .vBlank 153 455 with scx := 1#8 } := by decide

theorem witness_FramePeriodReturnsSequencer :
    (atPos .hBlank 143 203).Inv ∧ 70224 * 61160 < 2 ^ 32 ∧ (atPos .oamScan 0 0).mode = .oamScan ∧
    (atPos .oamScan 0 0).ly = 0#8 ∧ (atPos .oamScan 0 0).clocks = 0#9 ∧ (65664#32 : Delta).toNat < 70224 := by decide

theorem witness_EnabledLcdFramePeriod :
    State.reset.control.getLsbD 7 = false ∧ (0x80#8 : Byte).getLsbD 7 = true := by decide

/-- Both branches of the LYC clause, at their boundary values 153 and 154. -/
theorem witness_FrameEventCounts :
    ∀ lyc ∈ [0#8, 153#8, 154#8, 255#8],
      ({ atPos .oamScan 0 0 with lyc := lyc } : State).mode = .oamScan ∧
      ({ atPos .oamScan 0 0 with lyc := lyc } : State).ly = 0#8 ∧
      ({ atPos .oamScan 0 0 with lyc := lyc } : State).clocks = 0#9 := by decide

/-- I1b: the one dot that enters V-blank. -/
theorem test_tick_enters_vblank : (after (.tick 1#32) (atPos .hBlank 143 203)).map seen =
    some (.vBlank, 144, 0, none, [.vBlankEntered]) := by decide

end Sys2Proof.Tests
end

section
/-! SUPPORT. What a READ of 0xFF41 returns, and the mode field of the STAT byte (10_state.md R22, R25, R84). -/

namespace Sys2Proof.Machine

/-- The host's address 0xFF41 reaches READ_STAT, which answers the assembled byte (R27, R84). -/
theorem readValue_stat (s : State) : readValue 0xFF41#16 s = some (statByte s) := by
  have hread : readOf 0xFF41#16 = .readStat := by decide
  rw [readValue, hread]
  rfl

/-- The mode code is the low end of the STAT byte, so no other field of it reaches bits 1..0 (R22, R25). -/
theorem statByte_modeBits (s : State) : (statByte s).extractLsb' 0 2 = modeCode s.mode :=
  BitVec.extractLsb'_append_eq_right

end Sys2Proof.Machine
end

section
/-! Statements about the state (10_state.md), settled. -/

namespace Sys2Proof.Machine

/-- Settles O24: the READ returns the STAT byte, whose low two bits are the code of the state's mode (R12). -/
theorem statShowsModeCode : Obligations.StatShowsModeCode := by
  unfold Obligations.StatShowsModeCode
  intro s
  refine ⟨statByte s, readValue_stat s, ?_⟩
  rw [statByte_modeBits]
  cases s.mode <;> simp [modeCode]

end Sys2Proof.Machine
end

section
/-! SUPPORT. The VRAM window and the VRAM index in numbers (20_memory.md R35, R37). -/

namespace Sys2Proof.Machine

/-- The VRAM row of the address decode (R35). -/
theorem target_eq_vram_iff (a : Addr) : target a = .vram ↔ 0x8000 ≤ a.toNat ∧ a.toNat ≤ 0x9FFF := by
  constructor
  · intro h
    simpa [h] using target_cases a
  · intro hwin
    exact if_pos hwin

/-- Masking with 13 ones is the remainder by `2 ^ 13` (R37). -/
theorem vramIndex_eq_mod (a : Addr) : vramIndex a = a.toNat % 8192 := by
  rw [vramIndex, BitVec.toNat_and]
  exact Nat.and_two_pow_sub_one_eq_mod a.toNat 13

/-- The window starts at a multiple of its size, so the remainder is the offset into it (R37). -/
theorem vramIndex_of_window (a : Addr) (h : target a = .vram) : vramIndex a = a.toNat - 0x8000 := by
  obtain ⟨hlo, hhi⟩ := (target_eq_vram_iff a).mp h
  rw [vramIndex_eq_mod]
  omega

/-- An address is the window address of index `k` exactly when it is `0x8000 + k`: the inverse of the index (R37). -/
theorem window_vramIndex_eq_iff (a : Addr) {k : Nat} (hk : k < 8192) :
    target a = .vram ∧ vramIndex a = k ↔ a.toNat = 0x8000 + k := by
  rw [target_eq_vram_iff, vramIndex_eq_mod]
  omega

end Sys2Proof.Machine
end

section
/-! Statements about the memory (20_memory.md), settled. -/

namespace Sys2Proof.Machine

/-- Settles O8: the index of a window address is its offset, and `0x8000 + k` is the one window address of index `k`
(R37). -/
theorem vramIndexIsBijection : Obligations.VramIndexIsBijection := by
  unfold Obligations.VramIndexIsBijection
  refine ⟨fun a => ⟨rfl, vramIndex_eq_mod a⟩, vramIndex_of_window, fun k hk => ?_⟩
  have hnat : (BitVec.ofNat 16 (0x8000 + k)).toNat = 0x8000 + k :=
    (BitVec.toNat_ofNat _ _).trans (Nat.mod_eq_of_lt (by omega))
  refine ⟨BitVec.ofNat 16 (0x8000 + k), (window_vramIndex_eq_iff _ hk).mpr hnat, fun b hb => ?_⟩
  exact BitVec.eq_of_toNat_eq (((window_vramIndex_eq_iff b hk).mp hb).trans hnat.symm)

end Sys2Proof.Machine
end

section
/-! SUPPORT. R67's loop freed of its fuel: the two equations of `spendDots`, and where it stops (40_timing_fsm.md R67,
R73). -/

namespace Sys2Proof.Machine

theorem tickLoop_succ_of_lt (fuel : Nat) {c : Nat} {s : State} (h : c < budget s.mode) :
    tickLoop (fuel + 1) c s = { s with clocks := BitVec.ofNat 9 c } :=
  if_pos h

theorem tickLoop_succ_of_le (fuel : Nat) {c : Nat} {s : State} (h : budget s.mode ≤ c) :
    tickLoop (fuel + 1) c s = tickLoop fuel (c - budget s.mode) (endPhase s) :=
  if_neg (Nat.not_lt.mpr h)

/-- The fuel does not matter once it covers the dots: each pass takes at least 80 of them (R65). -/
theorem tickLoop_fuel_irrelevant {fuel fuel' c : Nat} (s : State) (h : c < 80 * fuel) (h' : c < 80 * fuel') :
    tickLoop fuel c s = tickLoop fuel' c s := by
  induction fuel generalizing fuel' c s with
  | zero => omega
  | succ fuel ih =>
    cases fuel' with
    | zero => omega
    | succ fuel' =>
      have hpass := budget_ge s.mode
      by_cases hc : c < budget s.mode
      · rw [tickLoop_succ_of_lt fuel hc, tickLoop_succ_of_lt fuel' hc]
      · have hle := Nat.not_lt.mp hc
        rw [tickLoop_succ_of_le fuel hle, tickLoop_succ_of_le fuel' hle]
        exact ih (endPhase s) (by omega) (by omega)

/-- Fewer dots than the budget of the phase are stored, and the phase goes on (R67). -/
theorem spendDots_of_lt {c : Nat} {s : State} (h : c < budget s.mode) :
    spendDots c s = { s with clocks := BitVec.ofNat 9 c } :=
  tickLoop_succ_of_lt _ h

/-- A budget that is there is taken off, the phase ends, and the rest is spent from the phase entered (R67, R73). -/
theorem spendDots_of_le {c : Nat} {s : State} (h : budget s.mode ≤ c) :
    spendDots c s = spendDots (c - budget s.mode) (endPhase s) := by
  have hpass := budget_ge s.mode
  rw [spendDots, tickLoop_succ_of_le _ h]
  exact tickLoop_fuel_irrelevant _ (by omega) (by omega)

/-- What the loop leaves is below the budget of the phase it stops in: 9 bits hold every budget (R65). -/
theorem spendDots_clocks_lt_budget (c : Nat) (s : State) :
    (spendDots c s).clocks.toNat < budget (spendDots c s).mode := by
  induction c using Nat.strong_induction_on generalizing s with
  | h c ih =>
    by_cases hc : c < budget s.mode
    · rw [spendDots_of_lt hc]
      exact Nat.lt_of_le_of_lt (Nat.mod_le c _) hc
    · have hle := Nat.not_lt.mp hc
      have hpass := budget_ge s.mode
      rw [spendDots_of_le hle]
      exact ih (c - budget s.mode) (by omega) (endPhase s)

end Sys2Proof.Machine
end

section
/-! SUPPORT. The end of an HBlank on each side of line 143 and of a line of V-blank on each side of line 153
(40_timing_fsm.md R70, R71). -/

namespace Sys2Proof.Machine

theorem lyAfterVBlankLine_of_lt {ly : BitVec 8} (h : ly.toNat < 153) : lyAfterVBlankLine ly = ly + 1#8 := by
  apply BitVec.eq_of_toNat_eq
  rw [lyAfterVBlankLine_toNat, if_neg (by omega), BitVec.toNat_add_of_lt (by simp; omega)]
  rfl

theorem lyAfterVBlankLine_of_last {ly : BitVec 8} (h : ly.toNat = 153) : lyAfterVBlankLine ly = 0#8 := by
  apply BitVec.eq_of_toNat_eq
  rw [lyAfterVBlankLine_toNat, if_pos (by omega)]
  rfl

/-- An HBlank before line 143 ends in the next visible line's OamScan. -/
theorem endPhase_hBlank_of_lt {s : State} (hmode : s.mode = .hBlank) (hly : s.ly.toNat < 143) :
    endPhase s = { s with
      mode := .oamScan, ly := s.ly + 1#8,
      events := s.events ++ lycEvents (s.ly == s.lyc) (s.ly + 1#8 == s.lyc) ++ [.oamEntered] } := by
  have hnext : ¬ 144 ≤ (s.ly + 1#8).toNat := by bv_omega
  rw [endPhase_hBlank s hmode, if_neg hnext]

/-- The HBlank of line 143 ends in V-blank. -/
theorem endPhase_hBlank_of_last {s : State} (hmode : s.mode = .hBlank) (hly : s.ly.toNat = 143) :
    endPhase s = { s with
      mode := .vBlank, ly := 144#8,
      events := s.events ++ lycEvents (s.ly == s.lyc) (144#8 == s.lyc) ++ [.vBlankEntered] } := by
  have hnext : s.ly + 1#8 = 144#8 := by bv_omega
  rw [endPhase_hBlank s hmode, hnext, if_pos (by decide)]

/-- A V-blank line before 153 hands over to the next one, and V-blank goes on. -/
theorem endPhase_vBlank_of_lt {s : State} (hmode : s.mode = .vBlank) (hly : s.ly.toNat < 153) :
    endPhase s = { s with
      ly := s.ly + 1#8, events := s.events ++ lycEvents (s.ly == s.lyc) (s.ly + 1#8 == s.lyc) } := by
  have hnext : ¬ s.ly + 1#8 = 0#8 := by bv_omega
  rw [endPhase_vBlank s hmode, lyAfterVBlankLine_of_lt hly, if_neg hnext]

/-- V-blank line 153 ends the frame, and LY 0 starts the next one. -/
theorem endPhase_vBlank_of_last {s : State} (hmode : s.mode = .vBlank) (hly : s.ly.toNat = 153) :
    endPhase s = { s with
      mode := .oamScan, ly := 0#8,
      events := s.events ++ lycEvents (s.ly == s.lyc) (0#8 == s.lyc) ++ [.oamEntered, .frameCompleted] } := by
  rw [endPhase_vBlank s hmode, if_pos (lyAfterVBlankLine_of_last hly), List.append_assoc _ [Event.oamEntered]]
  rfl

end Sys2Proof.Machine
end

section
/-! Statements about the timing FSM (40_timing_fsm.md), settled. -/

namespace Sys2Proof.Machine

/-- Settles O41: the fuel of `spendDots` covers its dots, so TICK obeys the loop's own equation and stops below the budget
of the phase it is in (R65, R73). -/
theorem tickIsTheBudgetLoop : Obligations.TickIsTheBudgetLoop := by
  unfold Obligations.TickIsTheBudgetLoop
  refine ⟨fun d s => rfl, fun c s => ?_, spendDots_clocks_lt_budget, rfl, rfl, rfl, rfl⟩
  split
  case isTrue h => exact spendDots_of_le h
  case isFalse h => exact spendDots_of_lt (Nat.not_le.mp h)

/-- Settles O42: one equation for each phase end on each side of LY 143 and 153 (R66, R68, R69, R72). -/
theorem phaseEndsFollowTable : Obligations.PhaseEndsFollowTable := by
  unfold Obligations.PhaseEndsFollowTable
  intro s
  exact ⟨endPhase_oamScan s, endPhase_pixelTransfer s, endPhase_hBlank_of_lt, endPhase_hBlank_of_last,
    fun hmode _ hly => endPhase_vBlank_of_lt hmode hly, endPhase_vBlank_of_last⟩

end Sys2Proof.Machine
end

section
/-! SUPPORT. The match flag of the STAT byte, a READ of an unmapped address, and what WRITE_LCDC and WRITE_LYC store
(10_state.md R22, R24; 41_register_file.md R82, R83, R93, R96). -/

namespace Sys2Proof.Machine

/-- The match flag stands above the two mode bits, so bit 2 of the STAT byte is the comparison (R22, R24). -/
theorem statByte_matchBit (s : State) : (statByte s).getLsbD 2 = (s.ly == s.lyc) := by
  simp only [statByte, BitVec.getLsbD_append]
  simp [lycMatch]

/-- An address that selects nothing is read by READ_UNMAPPED, which keeps the address (R56, R96). -/
theorem readOf_of_unmapped {a : Addr} (h : target a = .unmapped) : readOf a = .readUnmapped a := by
  rw [readOf, h]

/-- READ_UNMAPPED answers 0xFF, whatever the address (R96). -/
theorem exec_readUnmapped (a : Addr) (s : State) :
    exec (.readUnmapped a) s = .next { s with rdata := some 0xFF#8, events := [] } := rfl

/-- No edge of bit 7 touches the stored control byte (R83). -/
@[simp] theorem lcdEdge_control (old new : Bool) (s : State) : (lcdEdge old new s).control = s.control := by
  obtain ⟨-, h⟩ | ⟨-, -, h⟩ | ⟨-, -, h⟩ := lcdEdge_cases old new s <;> rw [h]

/-- WRITE_LYC as one equation: the new LYC, and the event exactly where the comparison changes (R93). -/
theorem exec_writeLyc (v : Byte) (s : State) :
    exec (.writeLyc v) s = .next { s with
      lyc := v, rdata := none, events := lycEvents (s.ly == s.lyc) (s.ly == v) } :=
  congrArg Host.Outcome.next (setLyc_eq v (beginOp s))

/-- A LYC of 154 or more is never reached: LY stays below 154 (R29, R93). -/
theorem ly_ne_of_le {s : State} {v : Byte} (hs : s.Inv) (hv : 154 ≤ v.toNat) : s.ly ≠ v := by
  obtain ⟨hly, -, -, -⟩ := hs
  rintro rfl
  omega

end Sys2Proof.Machine
end

section
/-! Statements about the register file (41_register_file.md), settled. -/

namespace Sys2Proof.Machine

/-- Settles O22: each READ answers its register; a written LCDC survives the edge of its bit 7, and LY is below 154 by
invariant 1 (R29). -/
theorem readsReturnStoredRegisters : Obligations.ReadsReturnStoredRegisters := by
  unfold Obligations.ReadsReturnStoredRegisters
  refine ⟨fun s => ⟨rfl, rfl, rfl, rfl, rfl, rfl⟩, ?lcdc, ?lyc, ?ly, rfl, rfl⟩
  case lcdc =>
    intro s t v h
    obtain rfl := Host.Outcome.next.inj h
    exact lcdEdge_control ..
  case lyc =>
    intro s t v h
    obtain rfl := Host.Outcome.next.inj h
    exact setLyc_lyc ..
  case ly =>
    rintro s ⟨hly, -, -, -⟩
    exact Nat.le_of_lt_succ hly

/-- Settles O25: a READ of an unmapped address is READ_UNMAPPED, whose answer does not depend on the address. -/
theorem unmappedReadsReturnFF : Obligations.UnmappedReadsReturnFF := by
  unfold Obligations.UnmappedReadsReturnFF
  refine ⟨fun s a => exec_readUnmapped a s, fun s a ha => ?_, by decide, by decide, by decide, by decide⟩
  have hread : readOf a = .readUnmapped a := readOf_of_unmapped ha
  exact ⟨hread, by rw [readValue, hread, exec_readUnmapped]⟩

/-- Settles O27: each of the three WRITEs is its own equation, which does not look at the mode. -/
theorem scrollAndPaletteWritesStore : Obligations.ScrollAndPaletteWritesStore := by
  unfold Obligations.ScrollAndPaletteWritesStore
  exact fun s v => ⟨rfl, rfl, rfl⟩

/-- Settles O31: WRITE_LYC by its equation; STAT bit 2 is computed from the new LYC, which LY never equals where it is 154
or more (R24, R29). -/
theorem lycWriteRecomputesMatch : Obligations.LycWriteRecomputesMatch := by
  unfold Obligations.LycWriteRecomputesMatch
  intro s v
  have hbit : (statByte { s with lyc := v }).getLsbD 2 = (s.ly == v) := statByte_matchBit _
  refine ⟨exec_writeLyc v s, hbit, fun hs hv => ?_⟩
  rw [hbit]
  exact beq_false_of_ne (ly_ne_of_le hs hv)

end Sys2Proof.Machine
end

section
/-! SUPPORT. READ_VRAM and WRITE_VRAM on each side of the gate, one equation each (42_vram_gate.md R99, R100, R101). -/

namespace Sys2Proof.Machine

theorem gateClosed_iff (s : State) : gateClosed s = true ↔ s.mode = .pixelTransfer := beq_iff_eq

/-- Closed, the gate answers 0xFF and the buffer is not read (R100). -/
theorem exec_readVram_of_closed (a : Addr) {s : State} (h : s.mode = .pixelTransfer) :
    exec (.readVram a) s = .next { s with rdata := some 0xFF#8, events := [] } := by
  rw [exec, execReadVram, if_pos ((gateClosed_iff s).mpr h)]
  rfl

/-- Open, the gate answers the byte at the index (R100). -/
theorem exec_readVram_of_open (a : Addr) {s : State} (h : s.mode ≠ .pixelTransfer) :
    exec (.readVram a) s = .next { s with rdata := some (memRead s.vram (vramIndex a)), events := [] } := by
  rw [exec, execReadVram, if_neg (mt (gateClosed_iff s).mp h)]
  rfl

/-- Closed, the gate drops the write (R101). -/
theorem exec_writeVram_of_closed (a : Addr) (v : Byte) {s : State} (h : s.mode = .pixelTransfer) :
    exec (.writeVram a v) s = .next { s with rdata := none, events := [] } := by
  rw [exec, execWriteVram, if_pos ((gateClosed_iff s).mpr h)]
  rfl

/-- Open, the gate lets the write reach its cell (R101). -/
theorem exec_writeVram_of_open (a : Addr) (v : Byte) {s : State} (h : s.mode ≠ .pixelTransfer) :
    exec (.writeVram a v) s =
      .next { s with vram := memWrite s.vram (vramIndex a) v, rdata := none, events := [] } := by
  rw [exec, execWriteVram, if_neg (mt (gateClosed_iff s).mp h)]
  rfl

end Sys2Proof.Machine
end

section
/-! Statements about the VRAM gate (42_vram_gate.md), settled. -/

namespace Sys2Proof.Machine

/-- Settles O38: the closed gate drops the write; through the open gate the new contents are one cell's write into
canonical contents, which `memRead_memWrite` reads at the index written and at every other. -/
theorem vramWriteThroughGate : Obligations.VramWriteThroughGate := by
  unfold Obligations.VramWriteThroughGate
  intro s a v _ hwf
  refine ⟨exec_writeVram_of_closed a v, fun hopen => ?_⟩
  have hread := memRead_memWrite s.vram hwf (vramIndex a) v
  refine ⟨memWrite s.vram (vramIndex a) v, exec_writeVram_of_open a v hopen, ?same, fun k hk => ?other⟩
  case same => rw [hread, if_pos rfl]
  case other => rw [hread, if_neg (Ne.symm hk)]

/-- Settles O37: READ_VRAM by its equation on each side of the gate. -/
theorem vramReadThroughGate : Obligations.VramReadThroughGate := by
  unfold Obligations.VramReadThroughGate
  exact fun s a _ => ⟨exec_readVram_of_closed a, exec_readVram_of_open a⟩

end Sys2Proof.Machine
end

section
/-! SUPPORT. The interrupt enables in the STAT byte (10_state.md R8, R22), and the two WRITEs that are ignored at every
time (41_register_file.md R91, R97). -/

namespace Sys2Proof.Machine

/-- The enables stand above the match flag and the two mode bits: bit `3 + k` of the STAT byte is enable `k` (R22). -/
theorem statByte_enableBit (s : State) {k : Nat} (hk : k < 4) :
    (statByte s).getLsbD (3 + k) = s.statEn.getLsbD k := by
  have hmode : ¬ 3 + k < 2 := by omega
  have hflag : ¬ 3 + k - 2 < 1 := by omega
  have hplace : 3 + k - 2 - 1 = k := by omega
  simp only [statByte, BitVec.getLsbD_append, if_neg hmode, if_neg hflag, hplace, if_pos hk]

/-- WRITE_LY is ignored: only the result of the last operation is gone (R91). -/
theorem exec_writeLy (v : Byte) (s : State) :
    exec (.writeLy v) s = .next { s with rdata := none, events := [] } := rfl

/-- WRITE_UNMAPPED is ignored, whatever the address (R97). -/
theorem exec_writeUnmapped (a : Addr) (v : Byte) (s : State) :
    exec (.writeUnmapped a v) s = .next { s with rdata := none, events := [] } := rfl

end Sys2Proof.Machine
end

section
/-! Statements about exceptions and events (60_exceptions.md), settled. -/

namespace Sys2Proof.Machine

/-- Settles O32: the closed gate's two equations, and the equations of the two WRITEs that are ignored in every mode. -/
theorem policyRejectionsAreSilent : Obligations.PolicyRejectionsAreSilent := by
  unfold Obligations.PolicyRejectionsAreSilent
  exact fun s a v =>
    ⟨exec_readVram_of_closed a, exec_writeVram_of_closed a v, exec_writeLy v s, exec_writeUnmapped a v s⟩

/-- Settles O54: each source looks at one stored enable, which the STAT byte shows three places higher (R22). -/
theorem statInterruptSources : Obligations.StatInterruptSources := by
  unfold Obligations.StatInterruptSources
  intro s
  have hblank : (statByte s).getLsbD 3 = hBlankIntEn s.statEn := statByte_enableBit s (k := 0) (by decide)
  have vblank : (statByte s).getLsbD 4 = vBlankIntEn s.statEn := statByte_enableBit s (k := 1) (by decide)
  have oam : (statByte s).getLsbD 5 = oamIntEn s.statEn := statByte_enableBit s (k := 2) (by decide)
  have lyc : (statByte s).getLsbD 6 = lycIntEn s.statEn := statByte_enableBit s (k := 3) (by decide)
  rw [hblank, vblank, oam, lyc]
  exact ⟨rfl, rfl, rfl, rfl, rfl, rfl⟩

end Sys2Proof.Machine
end

section
/-! SUPPORT. The enables as one field of the STAT byte, the three bits below them and the bit above (10_state.md R22);
what WRITE_STAT stores, and the sequencer after an edge of LCDC bit 7 (41_register_file.md R83, R85). -/

namespace Sys2Proof.Machine

/-- Bits 6..3 of the STAT byte are the stored enables (R21, R22). -/
theorem statByte_enables (s : State) : (statByte s).extractLsb' 3 4 = s.statEn := by
  apply BitVec.eq_of_getLsbD_eq
  intro k hk
  rw [BitVec.getLsbD_extractLsb', decide_eq_true hk, Bool.true_and, statByte_enableBit s hk]

/-- Below the enables stand the match flag and the mode code, both computed from the sequencer and LYC (R22, R24). -/
theorem statByte_lowBits (s : State) :
    (statByte s).extractLsb' 0 3 = BitVec.ofBool (lycMatch s) ++ modeCode s.mode := by
  rw [statByte, BitVec.append_assoc]
  exact BitVec.extractLsb'_append_eq_right

/-- Bit 7 of the STAT byte is 0 in every state (R22). -/
theorem statByte_topBit (s : State) : (statByte s).getLsbD 7 = false := by
  simp only [statByte, BitVec.getLsbD_append]
  rfl

/-- WRITE_STAT stores bits 6..3 of the value, and only the result of the last operation is gone besides (R85). -/
theorem exec_writeStat (v : Byte) (s : State) :
    exec (.writeStat v) s = .next { s with statEn := v.extractLsb' 3 4, rdata := none, events := [] } := rfl

/-- WRITE_LCDC stores the value and then acts on the edge of bit 7 (R83). -/
theorem exec_writeLcdc (v : Byte) (s : State) :
    exec (.writeLcdc v) s = .next (lcdEdge (s.control.getLsbD 7) (v.getLsbD 7) { beginOp s with control := v }) := rfl

/-- Either edge of bit 7 restarts the sequencer: off in HBlank, on in OamScan (R83). -/
theorem lcdEdge_restarts {old new : Bool} (s : State) (hedge : new ≠ old) :
    (lcdEdge old new s).ly = 0#8 ∧ (lcdEdge old new s).clocks = 0#9 ∧
      (lcdEdge old new s).mode = if new then .oamScan else .hBlank := by
  obtain ⟨hsame, -⟩ | ⟨-, rfl, hoff⟩ | ⟨-, rfl, hon⟩ := lcdEdge_cases old new s
  · exact absurd hsame.symm hedge
  · rw [hoff]
    exact ⟨rfl, rfl, rfl⟩
  · rw [hon]
    exact ⟨rfl, rfl, rfl⟩

end Sys2Proof.Machine
end

section
/-! Statements about reset and hazards (70_reset_and_hazards.md), settled. -/

namespace Sys2Proof.Machine

/-- Settles O28: WRITE_STAT by its equation; the enables are a field of the STAT byte of their own, and the bits around
them do not look at the stored enables (R22). -/
theorem statWriteChangesOnlyEnables : Obligations.StatWriteChangesOnlyEnables := by
  unfold Obligations.StatWriteChangesOnlyEnables
  intro s v
  refine ⟨_, exec_writeStat v s, ⟨rfl, rfl, rfl, rfl, rfl, rfl, rfl, rfl, rfl, rfl⟩, rfl, rfl, ?enables, ?low, ?top⟩
  case enables => exact statByte_enables _
  case low =>
    rw [statByte_lowBits, statByte_lowBits]
    rfl
  case top => rw [statByte_topBit, statByte_topBit]

/-- Settles O30: both edges restart the sequencer, and a write that keeps bit 7 leaves it to `lcdEdge_none`. -/
theorem lcdcEdgeRestartsFsm : Obligations.LcdcEdgeRestartsFsm := by
  unfold Obligations.LcdcEdgeRestartsFsm
  intro s v
  refine ⟨_, exec_writeLcdc v s, lcdEdge_restarts _, fun hsame => ?_⟩
  rw [hsame, lcdEdge_none]
  exact ⟨rfl, rfl, rfl⟩

end Sys2Proof.Machine
end

section
/-! SUPPORT. The decoder on the word of each format, the two ways round between a row and its format, and everything
the decoder can answer (30_encoding.md R50 to R57). -/

namespace Sys2Proof

theorem decode_formatT (d : Delta) : decode (formatT d) = .ok (.tick d) := by
  simp [decode]

theorem decode_formatR (a : Addr) : decode (formatR a) = .ok (readOf a) := by
  simp [decode]

theorem decode_formatW (a : Addr) (v : Byte) : decode (formatW a v) = .ok (writeOf a v) := by
  simp [decode]

/-- The row a READ decodes to is encoded by the READ's own word: a register row stands for one address (R56). -/
theorem encode_readOf (a : Addr) : encode (readOf a) = formatR a := by
  obtain ⟨h, -⟩ | ⟨h, rfl⟩ | ⟨h, rfl⟩ | ⟨h, rfl⟩ | ⟨h, rfl⟩ | ⟨h, rfl⟩ | ⟨h, rfl⟩ | ⟨h, rfl⟩ | ⟨h, -⟩ := target_cases a <;>
    rw [readOf, h] <;> rfl

theorem encode_writeOf (a : Addr) (v : Byte) : encode (writeOf a v) = formatW a v := by
  obtain ⟨h, -⟩ | ⟨h, rfl⟩ | ⟨h, rfl⟩ | ⟨h, rfl⟩ | ⟨h, rfl⟩ | ⟨h, rfl⟩ | ⟨h, rfl⟩ | ⟨h, rfl⟩ | ⟨h, -⟩ := target_cases a <;>
    rw [writeOf, h] <;> rfl

/-- A well-formed term is a TICK, or the row of a READ or a WRITE of some address (R56). -/
theorem exists_row_of_wellFormed {i : Instr} (h : i.wellFormed = true) :
    (∃ d, i = .tick d) ∨ (∃ a, i = readOf a) ∨ ∃ a v, i = writeOf a v := by
  cases i with
  | tick d => exact .inl ⟨d, rfl⟩
  | readVram a => exact .inr (.inl ⟨a, by rw [readOf, eq_of_beq h]⟩)
  | readUnmapped a => exact .inr (.inl ⟨a, by rw [readOf, eq_of_beq h]⟩)
  | readLcdc => exact .inr (.inl ⟨0xFF40#16, by decide⟩)
  | readStat => exact .inr (.inl ⟨0xFF41#16, by decide⟩)
  | readScy => exact .inr (.inl ⟨0xFF42#16, by decide⟩)
  | readScx => exact .inr (.inl ⟨0xFF43#16, by decide⟩)
  | readLy => exact .inr (.inl ⟨0xFF44#16, by decide⟩)
  | readLyc => exact .inr (.inl ⟨0xFF45#16, by decide⟩)
  | readBgp => exact .inr (.inl ⟨0xFF47#16, by decide⟩)
  | writeVram a v => exact .inr (.inr ⟨a, v, by rw [writeOf, eq_of_beq h]⟩)
  | writeUnmapped a v => exact .inr (.inr ⟨a, v, by rw [writeOf, eq_of_beq h]⟩)
  | writeLcdc v => exact .inr (.inr ⟨0xFF40#16, v, rfl⟩)
  | writeStat v => exact .inr (.inr ⟨0xFF41#16, v, rfl⟩)
  | writeScy v => exact .inr (.inr ⟨0xFF42#16, v, rfl⟩)
  | writeScx v => exact .inr (.inr ⟨0xFF43#16, v, rfl⟩)
  | writeLy v => exact .inr (.inr ⟨0xFF44#16, v, rfl⟩)
  | writeLyc v => exact .inr (.inr ⟨0xFF45#16, v, rfl⟩)
  | writeBgp v => exact .inr (.inr ⟨0xFF47#16, v, rfl⟩)

/-- A reserved bit of the word's format is set (R50 to R53, R57). -/
def HasReservedBit (w : CommandWord) : Prop :=
  reservedField w ≠ 0#30 ∨ ((opField w = 0b01#2 ∨ opField w = 0b10#2) ∧ hi8Field w ≠ 0#8) ∨
    (opField w = 0b01#2 ∧ lo8Field w ≠ 0#8)

/-- Everything the decoder can answer: one of its two refusals, or the row of a word that is its format's (R56, R57). -/
theorem decode_cases (w : CommandWord) :
    (decode w = .error .reservedBitsSet ∧ HasReservedBit w) ∨
    (decode w = .error .reservedOp ∧ reservedField w = 0#30 ∧ opField w = 0b11#2) ∨
    (∃ d, w = formatT d) ∨ (∃ a, w = formatR a) ∨ ∃ a v, w = formatW a v := by
  by_cases hres : reservedField w = 0#30
  case neg => exact .inl ⟨if_pos hres, .inl hres⟩
  have hop : opField w = 0b00#2 ∨ opField w = 0b01#2 ∨ opField w = 0b10#2 ∨ opField w = 0b11#2 := by
    bv_omega
  obtain hop | hop | hop | hop := hop
  · refine .inr (.inr (.inl ⟨deltaField w, BitVec.eq_of_toNat_eq ?_⟩))
    rw [formatT_toNat, word_toNat, deltaField_toNat, hop, hres]
    simp
  · by_cases hhi : hi8Field w = 0#8
    case neg => exact .inl ⟨by simp [decode, hres, hop, hhi], .inr (.inl ⟨.inl hop, hhi⟩)⟩
    by_cases hlo : lo8Field w = 0#8
    case neg => exact .inl ⟨by simp [decode, hres, hop, hhi, hlo], .inr (.inr ⟨hop, hlo⟩)⟩
    exact .inr (.inr (.inr (.inl ⟨addrField w, word_ext _ _ (by simpa) (by simpa) (by simpa) (by simp) (by simpa)⟩)))
  · by_cases hhi : hi8Field w = 0#8
    case neg => exact .inl ⟨by simp [decode, hres, hop, hhi], .inr (.inl ⟨.inr hop, hhi⟩)⟩
    exact .inr (.inr (.inr (.inr
      ⟨addrField w, lo8Field w, word_ext _ _ (by simpa) (by simpa) (by simpa) (by simp) (by simp)⟩)))
  · exact .inr (.inl ⟨by simp [decode, hres, hop], hres, hop⟩)

end Sys2Proof
end

section
/-! Statements about the command word (30_encoding.md), settled. -/

namespace Sys2Proof.Machine

/-- Settles O1: a well-formed term is the row of a TICK, a READ or a WRITE, whose word the decoder reads field by field. -/
theorem decodeOfEncode : Obligations.DecodeOfEncode := by
  unfold Obligations.DecodeOfEncode
  intro i hi
  obtain ⟨d, rfl⟩ | ⟨a, rfl⟩ | ⟨a, v, rfl⟩ := exists_row_of_wellFormed hi
  · exact decode_formatT d
  · rw [encode_readOf, decode_formatR]
  · rw [encode_writeOf, decode_formatW]

/-- Settles O2: a word that is not refused is some format's word, so it decodes to a row that encodes to it. -/
theorem encodeOfDecode : Obligations.EncodeOfDecode := by
  unfold Obligations.EncodeOfDecode
  intro w i h
  obtain ⟨herr, -⟩ | ⟨herr, -⟩ | ⟨d, rfl⟩ | ⟨a, rfl⟩ | ⟨a, v, rfl⟩ := decode_cases w
  · cases herr.symm.trans h
  · cases herr.symm.trans h
  · obtain rfl := Except.ok.inj ((decode_formatT d).symm.trans h)
    exact ⟨rfl, rfl⟩
  · obtain rfl := Except.ok.inj ((decode_formatR a).symm.trans h)
    exact ⟨readOf_wellFormed a, encode_readOf a⟩
  · obtain rfl := Except.ok.inj ((decode_formatW a v).symm.trans h)
    exact ⟨writeOf_wellFormed a v, encode_writeOf a v⟩

/-- Settles O4: the two refusals exclude each other, and the word of a format meets the condition of neither. -/
theorem refusedWordsExactly : Obligations.RefusedWordsExactly := by
  unfold Obligations.RefusedWordsExactly
  intro w
  change (decode w = .error .reservedOp ↔ reservedField w = 0#30 ∧ opField w = 0b11#2) ∧
    (decode w = .error .reservedBitsSet ↔ HasReservedBit w)
  obtain ⟨h, hbit⟩ | ⟨h, hres, hop⟩ | ⟨d, rfl⟩ | ⟨a, rfl⟩ | ⟨a, v, rfl⟩ := decode_cases w
  · have hno : ¬ (reservedField w = 0#30 ∧ opField w = 0b11#2) := by
      rintro ⟨hres, hop⟩
      simp [HasReservedBit, hres, hop] at hbit
    simp [h, hbit, hno]
  · simp [h, hres, hop, HasReservedBit]
  · simp [decode_formatT, HasReservedBit]
  · simp [decode_formatR, HasReservedBit]
  · simp [decode_formatW, HasReservedBit]

end Sys2Proof.Machine
end

section
/-! SUPPORT. The words of R62's arithmetic are those of the formats, and the opcode table read field by field
(30_encoding.md R56, R62). -/

namespace Sys2Proof

theorem word_tick (d : Delta) : (HostOp.tick d).word = formatT d := by
  apply BitVec.eq_of_toNat_eq
  rw [formatT_toNat, HostOp.word, BitVec.toNat_setWidth, Nat.mod_eq_of_lt (by omega)]

theorem addr_shifted_toNat (a : Addr) : (a.setWidth 64 <<< 8).toNat = 2 ^ 8 * a.toNat := by
  rw [BitVec.toNat_shiftLeft, BitVec.toNat_setWidth, Nat.shiftLeft_eq]
  omega

/-- `|` of numbers with no bit in common is their sum, so R62's READ word is format R's. -/
theorem word_readByte (a : Addr) : (HostOp.readByte a).word = formatR a := by
  apply BitVec.eq_of_toNat_eq
  have hsum := Nat.two_pow_add_eq_or_of_lt (i := 62) (b := 2 ^ 8 * a.toNat) (by omega) 1
  rw [formatR_toNat, HostOp.word, BitVec.toNat_or, addr_shifted_toNat]
  exact hsum.symm.trans (by omega)

theorem word_writeByte (a : Addr) (v : Byte) : (HostOp.writeByte a v).word = formatW a v := by
  apply BitVec.eq_of_toNat_eq
  have hhigh := Nat.two_pow_add_eq_or_of_lt (i := 63) (b := 2 ^ 8 * a.toNat) (by omega) 1
  have hlow := Nat.two_pow_add_eq_or_of_lt (i := 8) (b := v.toNat) v.isLt (2 ^ 55 + a.toNat)
  have hopAddr : (0x8000000000000000#64 ||| (a.setWidth 64 <<< 8)).toNat = 2 ^ 8 * (2 ^ 55 + a.toNat) := by
    rw [BitVec.toNat_or, addr_shifted_toNat]
    exact hhigh.symm.trans (by omega)
  rw [formatW_toNat, HostOp.word, BitVec.toNat_or, hopAddr, BitVec.toNat_setWidth, Nat.mod_eq_of_lt (by omega), ← hlow]
  omega

theorem fields_and (w m : CommandWord) :
    opField (w &&& m) = opField w &&& opField m ∧ reservedField (w &&& m) = reservedField w &&& reservedField m ∧
    hi8Field (w &&& m) = hi8Field w &&& hi8Field m ∧ addrField (w &&& m) = addrField w &&& addrField m ∧
    lo8Field (w &&& m) = lo8Field w &&& lo8Field m :=
  ⟨BitVec.extractLsb'_and, BitVec.extractLsb'_and, BitVec.extractLsb'_and, BitVec.extractLsb'_and,
    BitVec.extractLsb'_and⟩

/-- A row matches a word exactly when it matches field by field (R56). -/
theorem matchesWord_iff (r : OpcodeRow) (w : CommandWord) :
    r.matchesWord w = true ↔
      opField w &&& opField r.mask = opField r.bits ∧ reservedField w &&& reservedField r.mask = reservedField r.bits ∧
      hi8Field w &&& hi8Field r.mask = hi8Field r.bits ∧ addrField w &&& addrField r.mask = addrField r.bits ∧
      lo8Field w &&& lo8Field r.mask = lo8Field r.bits := by
  obtain ⟨hop, hres, hhi, haddr, hlo⟩ := fields_and w r.mask
  rw [OpcodeRow.matchesWord, beq_iff_eq, ← hop, ← hres, ← hhi, ← haddr, ← hlo]
  constructor
  · intro h
    rw [h]
    exact ⟨rfl, rfl, rfl, rfl, rfl⟩
  · rintro ⟨h1, h2, h3, h4, h5⟩
    exact word_ext _ _ h1 h2 h3 h4 h5

/-- Every row fixes the operation to one that is spelled, and every reserved bit of its format to 0 (R50 to R53). -/
def OpcodeRow.FixesReserved (r : OpcodeRow) : Prop :=
  (opField r.mask = 0b11#2 ∧ opField r.bits ≠ 0b11#2) ∧
  (reservedField r.mask = BitVec.allOnes 30 ∧ reservedField r.bits = 0#30) ∧
  (opField r.bits ≠ 0b00#2 → hi8Field r.mask = BitVec.allOnes 8 ∧ hi8Field r.bits = 0#8) ∧
  (opField r.bits = 0b01#2 → lo8Field r.mask = BitVec.allOnes 8 ∧ lo8Field r.bits = 0#8)

theorem opcodeTable_fixesReserved : ∀ r ∈ opcodeTable, r.FixesReserved := by
  unfold OpcodeRow.FixesReserved
  decide

/-- A word that matches a row has no reserved bit set and no reserved operation. -/
theorem not_refused_of_matchesWord {r : OpcodeRow} {w : CommandWord} (hr : r ∈ opcodeTable)
    (h : r.matchesWord w = true) : opField w ≠ 0b11#2 ∧ ¬ HasReservedBit w := by
  obtain ⟨⟨hopm, hopb⟩, ⟨hresm, hresb⟩, hhib, hlob⟩ := opcodeTable_fixesReserved r hr
  obtain ⟨hop, hres, hhi, -, hlo⟩ := (matchesWord_iff r w).mp h
  have hopw : opField w = opField r.bits := by
    rw [← hop, hopm]
    exact BitVec.and_allOnes.symm
  have hresw : reservedField w = 0#30 := by
    rw [← hresb, ← hres, hresm, BitVec.and_allOnes]
  rw [← hopw] at hopb hhib hlob
  refine ⟨hopb, ?_⟩
  rintro (hbit | ⟨hrw, hbit⟩ | ⟨hread, hbit⟩)
  · exact hbit hresw
  · obtain ⟨hm, hb⟩ := hhib (by rintro h0; simp [h0] at hrw)
    rw [hm, hb, BitVec.and_allOnes] at hhi
    exact hbit hhi
  · obtain ⟨hm, hb⟩ := hlob hread
    rw [hm, hb, BitVec.and_allOnes] at hlo
    exact hbit hlo

theorem tableMnemonic_eq_none {w : CommandWord} (h : ∀ r ∈ opcodeTable, ¬ r.matchesWord w = true) :
    tableMnemonic w = none := by
  rw [tableMnemonic, List.find?_eq_none.mpr h, Option.map_none]

theorem tableMnemonic_formatT (d : Delta) : tableMnemonic (formatT d) = some "TICK" := by
  have hrow : OpcodeRow.matchesWord ⟨"TICK", 0x0000000000000000, 0xFFFFFFFF00000000⟩ (formatT d) = true := by
    rw [matchesWord_iff, opField_formatT, reservedField_formatT]
    exact ⟨rfl, rfl, BitVec.and_zero, BitVec.and_zero, BitVec.and_zero⟩
  exact congrArg (Option.map OpcodeRow.mnemonic) (List.find?_cons_of_pos hrow)

/-- The mask of the VRAM rows leaves the top three address bits, which are 0b100 in the window alone (R35). -/
theorem and_windowMask_eq_iff (a : Addr) : a &&& 0xE000#16 = 0x8000#16 ↔ 0x8000 ≤ a.toNat ∧ a.toNat ≤ 0x9FFF := by
  have hquot : (a.toNat &&& 0xE000) / 2 ^ 13 = a.toNat / 2 ^ 13 % 2 ^ 3 :=
    Nat.and_div_two_pow.trans (Nat.and_two_pow_sub_one_eq_mod _ 3)
  have hrem : (a.toNat &&& 0xE000) % 2 ^ 13 = 0 := Nat.and_mod_two_pow.trans (Nat.and_zero _)
  have hlt := a.isLt
  rw [← BitVec.toNat_inj, BitVec.toNat_and]
  change a.toNat &&& 0xE000 = 0x8000 ↔ _
  omega

/-- What a row asks of a READ's word: its operation, and the row's bits of the address (R52, R56). -/
theorem matchesWord_formatR (r : OpcodeRow) (a : Addr) :
    r.matchesWord (formatR a) =
      decide ((0b01#2 &&& opField r.mask = opField r.bits ∧ 0#30 = reservedField r.bits ∧ 0#8 = hi8Field r.bits ∧
        0#8 = lo8Field r.bits) ∧ a &&& addrField r.mask = addrField r.bits) := by
  rw [Bool.eq_iff_iff, matchesWord_iff, decide_eq_true_iff]
  simp only [opField_formatR, reservedField_formatR, hi8Field_formatR, addrField_formatR, lo8Field_formatR,
    BitVec.zero_and]
  tauto

/-- What a row asks of a WRITE's word: its operation, and the row's bits of the address and of the value (R53, R56). -/
theorem matchesWord_formatW (r : OpcodeRow) (a : Addr) (v : Byte) :
    r.matchesWord (formatW a v) =
      decide ((0b10#2 &&& opField r.mask = opField r.bits ∧ 0#30 = reservedField r.bits ∧ 0#8 = hi8Field r.bits ∧
        v &&& lo8Field r.mask = lo8Field r.bits) ∧ a &&& addrField r.mask = addrField r.bits) := by
  rw [Bool.eq_iff_iff, matchesWord_iff, decide_eq_true_iff]
  simp only [opField_formatW, reservedField_formatW, hi8Field_formatW, addrField_formatW, lo8Field_formatW,
    BitVec.zero_and]
  tauto

/-- The address picks the READ row: each mask leaves it whole, or leaves what decides the window (R56). -/
theorem tableMnemonic_formatR (a : Addr) : tableMnemonic (formatR a) = some (readOf a).mnemonic := by
  have hall : a &&& 0xFFFF#16 = a := BitVec.and_allOnes
  have hwin := and_windowMask_eq_iff a
  obtain ⟨h, hin⟩ | ⟨h, rfl⟩ | ⟨h, rfl⟩ | ⟨h, rfl⟩ | ⟨h, rfl⟩ | ⟨h, rfl⟩ | ⟨h, rfl⟩ | ⟨h, rfl⟩ | ⟨h, hout, hne⟩ :=
    target_cases a <;>
  simp [tableMnemonic, opcodeTable, readRows, writeRows, unmappedRows, matchesWord_formatR, opField, reservedField,
    hi8Field, lo8Field, addrField, readOf, Instr.mnemonic, *]

theorem tableMnemonic_formatW (a : Addr) (v : Byte) : tableMnemonic (formatW a v) = some (writeOf a v).mnemonic := by
  have hall : a &&& 0xFFFF#16 = a := BitVec.and_allOnes
  have hwin := and_windowMask_eq_iff a
  obtain ⟨h, hin⟩ | ⟨h, rfl⟩ | ⟨h, rfl⟩ | ⟨h, rfl⟩ | ⟨h, rfl⟩ | ⟨h, rfl⟩ | ⟨h, rfl⟩ | ⟨h, rfl⟩ | ⟨h, hout, hne⟩ :=
    target_cases a <;>
  simp [tableMnemonic, opcodeTable, readRows, writeRows, unmappedRows, matchesWord_formatW, opField, reservedField,
    hi8Field, lo8Field, addrField, writeOf, Instr.mnemonic, *]

end Sys2Proof
end

section
/-! Statements about the command word and the address decode (30_encoding.md, 20_memory.md), settled. -/

namespace Sys2Proof.Machine

/-- Settles O3: a refused word matches no row, since every row fixes what the refusals look at; the word of a format is
matched by the row of its address. -/
theorem decodeFollowsOpcodeTable : Obligations.DecodeFollowsOpcodeTable := by
  unfold Obligations.DecodeFollowsOpcodeTable
  intro w
  obtain ⟨h, hbit⟩ | ⟨h, -, hop⟩ | ⟨d, rfl⟩ | ⟨a, rfl⟩ | ⟨a, v, rfl⟩ := decode_cases w
  · rw [h, tableMnemonic_eq_none fun r hr hm => (not_refused_of_matchesWord hr hm).2 hbit]
    rfl
  · rw [h, tableMnemonic_eq_none fun r hr hm => (not_refused_of_matchesWord hr hm).1 hop]
    rfl
  · rw [decode_formatT, tableMnemonic_formatT]
    rfl
  · rw [decode_formatR, tableMnemonic_formatR]
    rfl
  · rw [decode_formatW, tableMnemonic_formatW]
    rfl

/-- Settles O6: R62's arithmetic spells the word of the operation's format. -/
theorem hostOperationWordDecodes : Obligations.HostOperationWordDecodes := by
  unfold Obligations.HostOperationWordDecodes
  intro op
  cases op with
  | tick d => rw [word_tick, decode_formatT]; rfl
  | readByte a => rw [word_readByte, decode_formatR]; rfl
  | writeByte a v => rw [word_writeByte, decode_formatW]; rfl

/-- Settles O7: each case of `target_cases` gives the target and what the address is, and the ranges exclude each other. -/
theorem addressDecodeRanges : Obligations.AddressDecodeRanges := by
  unfold Obligations.AddressDecodeRanges
  intro a
  obtain ⟨h, hin⟩ | ⟨h, rfl⟩ | ⟨h, rfl⟩ | ⟨h, rfl⟩ | ⟨h, rfl⟩ | ⟨h, rfl⟩ | ⟨h, rfl⟩ | ⟨h, rfl⟩ | ⟨h, hout, hne⟩ :=
    target_cases a
  case inl =>
    simp only [h, true_iff, reduceCtorEq, false_iff]
    bv_omega
  case inr.inr.inr.inr.inr.inr.inr.inr =>
    simp only [h, true_iff, reduceCtorEq, false_iff]
    bv_omega
  all_goals simp [h]

/-- Settles O5: each word by the decoder itself. -/
theorem writtenOutWordsDecode : Obligations.WrittenOutWordsDecode := by
  unfold Obligations.WrittenOutWordsDecode
  exact ⟨rfl, rfl, rfl, rfl, rfl, rfl, rfl, rfl, rfl, rfl, rfl⟩

end Sys2Proof.Machine
end

section
/-! SUPPORT. Everything one operation can do to the state: the case split of every later proof about all operations
(41_register_file.md, 42_vram_gate.md, 40_timing_fsm.md). -/

namespace Sys2Proof.Machine

/-- `OpEffect s i t`: the operation `i` takes `s` to `t` in the way the constructor names. -/
inductive OpEffect (s : State) : Instr → State → Prop where
  | read {i : Instr} (hi : isRead i = true) (b : Byte) : OpEffect s i { s with rdata := some b, events := [] }
  | ignored {i : Instr} (hi : isRead i = false) : OpEffect s i { s with rdata := none, events := [] }
  | tick (d : Delta) : OpEffect s (.tick d) (spendDots (s.clocks.toNat + d.toNat) (beginOp s))
  | vram (a : Addr) (v : Byte) (hopen : s.mode ≠ .pixelTransfer) :
      OpEffect s (.writeVram a v) { s with vram := memWrite s.vram (vramIndex a) v, rdata := none, events := [] }
  | lcdc (v : Byte) :
      OpEffect s (.writeLcdc v) (lcdEdge (s.control.getLsbD 7) (v.getLsbD 7) { beginOp s with control := v })
  | stat (v : Byte) : OpEffect s (.writeStat v) { s with statEn := v.extractLsb' 3 4, rdata := none, events := [] }
  | scy (v : Byte) : OpEffect s (.writeScy v) { s with scy := v, rdata := none, events := [] }
  | scx (v : Byte) : OpEffect s (.writeScx v) { s with scx := v, rdata := none, events := [] }
  | lyc (v : Byte) : OpEffect s (.writeLyc v)
      { s with lyc := v, rdata := none, events := lycEvents (s.ly == s.lyc) (s.ly == v) }
  | bgp (v : Byte) : OpEffect s (.writeBgp v) { s with bgp := v, rdata := none, events := [] }

theorem afterInstr_opEffect (i : Instr) (s : State) : OpEffect s i (afterInstr i s) := by
  cases i with
  | tick d => exact .tick d
  | readVram a => exact .read rfl _
  | readLcdc => exact .read rfl _
  | readStat => exact .read rfl _
  | readScy => exact .read rfl _
  | readScx => exact .read rfl _
  | readLy => exact .read rfl _
  | readLyc => exact .read rfl _
  | readBgp => exact .read rfl _
  | readUnmapped a => exact .read rfl _
  | writeVram a v =>
    by_cases hmode : s.mode = .pixelTransfer
    · rw [afterInstr, exec_writeVram_of_closed a v hmode]
      exact .ignored rfl
    · rw [afterInstr, exec_writeVram_of_open a v hmode]
      exact .vram a v hmode
  | writeLcdc v => exact .lcdc v
  | writeStat v => exact .stat v
  | writeScy v => exact .scy v
  | writeScx v => exact .scx v
  | writeLy v => exact .ignored rfl
  | writeLyc v =>
    rw [afterInstr, exec_writeLyc]
    exact .lyc v
  | writeBgp v => exact .bgp v
  | writeUnmapped a v => exact .ignored rfl

theorem opEffect_of_exec {i : Instr} {s t : State} (h : exec i s = .next t) : OpEffect s i t := by
  obtain rfl := Host.Outcome.next.inj ((exec_eq i s).symm.trans h)
  exact afterInstr_opEffect i s

end Sys2Proof.Machine
end

section
/-! SUPPORT. The invariants on LY and the mode (10_state.md R29, R30) along the phase ends, a TICK and every operation. -/

namespace Sys2Proof.Machine

/-- Invariants 1 and 2 of 10_state.md section 7: LY is a line of the frame, and V-blank is the lines from 144 on. -/
def State.LineInv (s : State) : Prop :=
  s.ly.toNat < 154 ∧ (s.mode = .vBlank ↔ 144 ≤ s.ly.toNat)

theorem inv_iff (s : State) :
    s.Inv ↔ s.LineInv ∧ s.clocks.toNat < budget s.mode ∧ Memory.wf s.vram = true :=
  and_assoc.symm

theorem ly_succ_toNat {ly : BitVec 8} (h : ly.toNat < 255) : (ly + 1#8).toNat = ly.toNat + 1 := by
  bv_omega

/-- The six phase ends that a run reaches (R66). -/
theorem endPhase_cases {s : State} (hs : s.LineInv) :
    (s.mode = .oamScan ∧ s.ly.toNat < 144 ∧ endPhase s = { s with mode := .pixelTransfer }) ∨
    (s.mode = .pixelTransfer ∧ s.ly.toNat < 144 ∧
      endPhase s = { s with mode := .hBlank, events := s.events ++ [.hBlankEntered] }) ∨
    (s.mode = .hBlank ∧ s.ly.toNat < 143 ∧ endPhase s = { s with
      mode := .oamScan, ly := s.ly + 1#8,
      events := s.events ++ lycEvents (s.ly == s.lyc) (s.ly + 1#8 == s.lyc) ++ [.oamEntered] }) ∨
    (s.mode = .hBlank ∧ s.ly.toNat = 143 ∧ endPhase s = { s with
      mode := .vBlank, ly := 144#8,
      events := s.events ++ lycEvents (s.ly == s.lyc) (144#8 == s.lyc) ++ [.vBlankEntered] }) ∨
    (s.mode = .vBlank ∧ 144 ≤ s.ly.toNat ∧ s.ly.toNat < 153 ∧ endPhase s = { s with
      ly := s.ly + 1#8, events := s.events ++ lycEvents (s.ly == s.lyc) (s.ly + 1#8 == s.lyc) }) ∨
    (s.mode = .vBlank ∧ s.ly.toNat = 153 ∧ endPhase s = { s with
      mode := .oamScan, ly := 0#8,
      events := s.events ++ lycEvents (s.ly == s.lyc) (0#8 == s.lyc) ++ [.oamEntered, .frameCompleted] }) := by
  obtain ⟨hly, hvb⟩ := hs
  cases hmode : s.mode with
  | oamScan =>
    have hline : s.ly.toNat < 144 := by simpa [hmode] using hvb
    exact .inl ⟨rfl, hline, endPhase_oamScan s hmode⟩
  | pixelTransfer =>
    have hline : s.ly.toNat < 144 := by simpa [hmode] using hvb
    exact .inr (.inl ⟨rfl, hline, endPhase_pixelTransfer s hmode⟩)
  | hBlank =>
    have hline : s.ly.toNat < 144 := by simpa [hmode] using hvb
    obtain hlt | hlast : s.ly.toNat < 143 ∨ s.ly.toNat = 143 := by omega
    · exact .inr (.inr (.inl ⟨rfl, hlt, endPhase_hBlank_of_lt hmode hlt⟩))
    · exact .inr (.inr (.inr (.inl ⟨rfl, hlast, endPhase_hBlank_of_last hmode hlast⟩)))
  | vBlank =>
    have hline : 144 ≤ s.ly.toNat := hvb.mp hmode
    obtain hlt | hlast : s.ly.toNat < 153 ∨ s.ly.toNat = 153 := by omega
    · exact .inr (.inr (.inr (.inr (.inl ⟨rfl, hline, hlt, hmode ▸ endPhase_vBlank_of_lt hmode hlt⟩))))
    · exact .inr (.inr (.inr (.inr (.inr ⟨rfl, hlast, endPhase_vBlank_of_last hmode hlast⟩))))

theorem endPhase_lineInv {s : State} (hs : s.LineInv) : (endPhase s).LineInv := by
  obtain ⟨-, hly, h⟩ | ⟨-, hly, h⟩ | ⟨-, hly, h⟩ | ⟨-, hly, h⟩ | ⟨hmode, hly, hlt, h⟩ | ⟨-, hly, h⟩ :=
    endPhase_cases hs <;> rw [h, State.LineInv]
  · simp only [reduceCtorEq, false_iff]
    omega
  · simp only [reduceCtorEq, false_iff]
    omega
  · simp only [ly_succ_toNat (ly := s.ly) (by omega), reduceCtorEq, false_iff]
    omega
  · simp
  · simp only [ly_succ_toNat (ly := s.ly) (by omega), hmode, true_iff]
    omega
  · simp

/-- A TICK keeps invariants 1 and 2, since every phase end does and the final store writes `clocks` alone. -/
theorem spendDots_lineInv (c : Nat) {s : State} (hs : s.LineInv) : (spendDots c s).LineInv :=
  tickLoop_keeps State.LineInv (fun _ => endPhase_lineInv) (fun _ _ h => h) _ c s hs

theorem spendDots_inv (c : Nat) {s : State} (hs : s.LineInv) (hwf : Memory.wf s.vram = true) :
    (spendDots c s).Inv := by
  obtain ⟨hvram, -⟩ := spendDots_frame c s
  rw [inv_iff, hvram]
  exact ⟨spendDots_lineInv c hs, spendDots_clocks_lt_budget c s, hwf⟩

/-- An edge of LCDC bit 7 restarts at LY 0 and clocks 0, outside V-blank; no edge changes nothing (R83). -/
theorem lcdEdge_inv (old new : Bool) {s : State} (hs : s.Inv) : (lcdEdge old new s).Inv := by
  have ⟨_, _, _, hwf⟩ := hs
  obtain ⟨-, h⟩ | ⟨-, -, h⟩ | ⟨-, -, h⟩ := lcdEdge_cases old new s <;> rw [h]
  · exact hs
  · exact ⟨by simp, by simp, by simp, hwf⟩
  · exact ⟨by simp, by simp, by simp, hwf⟩

theorem opEffect_inv {i : Instr} {s t : State} (hs : s.Inv) (h : OpEffect s i t) : t.Inv := by
  obtain ⟨hline, hclocks, hwf⟩ := (inv_iff s).mp hs
  cases h with
  | tick d => exact spendDots_inv _ hline hwf
  | vram a v => exact (inv_iff _).mpr ⟨hline, hclocks, memWrite_wf s.vram v hwf (vramIndex_lt a)⟩
  | lcdc v => exact lcdEdge_inv _ _ hs
  | read hi b => exact hs
  | ignored hi => exact hs
  | stat v => exact hs
  | scy v => exact hs
  | scx v => exact hs
  | lyc v => exact hs
  | bgp v => exact hs

end Sys2Proof.Machine
end

section
/-! Statements about the invariants (10_state.md section 7), settled. -/

namespace Sys2Proof.Machine

/-- Settles O17: every conjunct is a closed fact about the reset values. -/
theorem resetMeetsInvariants : Obligations.ResetMeetsInvariants := by
  unfold Obligations.ResetMeetsInvariants
  decide

/-- Settles O16: a step is idle, a reset or one operation, and each of them keeps the invariants. -/
theorem stepKeepsInvariants : Obligations.StepKeepsInvariants := by
  unfold Obligations.StepKeepsInvariants
  intro s t hs h
  obtain ⟨-, rfl⟩ | ⟨rest, -, rfl⟩ | ⟨w, rest, i, -, -, rfl⟩ := step_cases h
  · exact hs
  · exact resetMeetsInvariants
  · have hs' : State.Inv { s with inputs := rest } := hs
    exact opEffect_inv hs' (afterInstr_opEffect i _)

end Sys2Proof.Machine
end

section
/-! SUPPORT. What operations leave alone, read off their effects: the ports, the sequencer, VRAM; and the step on each
kind of input (00_scope.md R5; 30_encoding.md R55; 42_vram_gate.md R102). -/

namespace Sys2Proof.Machine

/-- An edge of LCDC bit 7 writes `mode`, `clocks`, `ly` and its own events, and nothing else (R83). -/
theorem lcdEdge_frame (old new : Bool) (s : State) :
    (lcdEdge old new s).vram = s.vram ∧ (lcdEdge old new s).lyc = s.lyc ∧ (lcdEdge old new s).scy = s.scy ∧
      (lcdEdge old new s).scx = s.scx ∧ (lcdEdge old new s).bgp = s.bgp ∧ (lcdEdge old new s).statEn = s.statEn ∧
      (lcdEdge old new s).inputs = s.inputs ∧ (lcdEdge old new s).rdata = s.rdata := by
  obtain ⟨-, h⟩ | ⟨-, -, h⟩ | ⟨-, -, h⟩ := lcdEdge_cases old new s <;> simp [h]

/-- An operation leaves the inputs that wait, and has read data exactly where it is a READ (R55; log 1). -/
theorem opEffect_ports {i : Instr} {s t : State} (h : OpEffect s i t) :
    t.inputs = s.inputs ∧ t.rdata.isSome = isRead i := by
  cases h with
  | read hi b => exact ⟨rfl, hi.symm⟩
  | ignored hi => exact ⟨rfl, hi.symm⟩
  | tick d =>
    obtain ⟨-, -, -, -, -, -, -, hinputs, hrdata⟩ := spendDots_frame (s.clocks.toNat + d.toNat) (beginOp s)
    rw [hinputs, hrdata]
    exact ⟨rfl, rfl⟩
  | lcdc v =>
    obtain ⟨-, -, -, -, -, -, hinputs, hrdata⟩ :=
      lcdEdge_frame (s.control.getLsbD 7) (v.getLsbD 7) { beginOp s with control := v }
    rw [hinputs, hrdata]
    exact ⟨rfl, rfl⟩
  | vram a v => exact ⟨rfl, rfl⟩
  | stat v => exact ⟨rfl, rfl⟩
  | scy v => exact ⟨rfl, rfl⟩
  | scx v => exact ⟨rfl, rfl⟩
  | lyc v => exact ⟨rfl, rfl⟩
  | bgp v => exact ⟨rfl, rfl⟩

theorem step_of_command {s : State} {w : CommandWord} {rest : List HostInput} {i : Instr}
    (hs : s.inputs = .command w :: rest) (hd : decode w = .ok i) : step s = exec i { s with inputs := rest } := by
  rw [step, nextInput_cons s _ rest hs]
  simp only [hd]

theorem step_of_refused {s : State} {w : CommandWord} {rest : List HostInput} {e : DecodeError}
    (hs : s.inputs = .command w :: rest) (hd : decode w = .error e) : step s = .refused (refusalOf e) := by
  rw [step, nextInput_cons s _ rest hs]
  simp only [hd]

theorem step_of_reset {s : State} {rest : List HostInput} (hs : s.inputs = .reset :: rest) :
    step s = .next { State.reset with inputs := rest } := by
  rw [step, nextInput_cons s _ rest hs]
  rfl

theorem step_of_no_input {s : State} (hs : s.inputs = []) : step s = .next { s with rdata := none, events := [] } := by
  rw [step, nextInput_nil s hs]
  rfl

/-- A run whose first step completes goes on from the state that step left. -/
theorem run_succ (n : Nat) {s t : State} (h : step s = .next t) :
    Host.Core.run Sys2Proof.core (n + 1) s = Host.Core.run Sys2Proof.core n t := by
  have hstep : Sys2Proof.core.step s = .next t := h
  simp only [Host.Core.run, hstep]

/-- A step is refused only on a word that the decoder refuses. -/
theorem step_refused_cases {s : State} {r : Refusal} (h : step s = .refused r) :
    ∃ w rest e, s.inputs = .command w :: rest ∧ decode w = .error e ∧ r = refusalOf e := by
  cases hs : s.inputs with
  | nil => cases (step_of_no_input hs).symm.trans h
  | cons input rest =>
    cases input with
    | reset => cases (step_of_reset hs).symm.trans h
    | command w =>
      cases hd : decode w with
      | ok i => cases ((step_of_command hs hd).trans (exec_eq i _)).symm.trans h
      | error e => exact ⟨w, rest, e, rfl, hd, (Host.Outcome.refused.inj ((step_of_refused hs hd).symm.trans h)).symm⟩

/-- A legal input is taken by a step that completes; so is no input at all (R105; log 2). -/
theorem step_of_legal {s : State} (h : ∀ x ∈ s.inputs, legalInput x = true) :
    ∃ t, step s = .next t ∧ t.inputs = s.inputs.drop 1 := by
  cases hs : s.inputs with
  | nil => exact ⟨_, step_of_no_input hs, hs⟩
  | cons input rest =>
    cases input with
    | reset => exact ⟨_, step_of_reset hs, rfl⟩
    | command w =>
      have hw : legalInput (.command w) = true := h _ (by rw [hs]; exact List.mem_cons_self)
      cases hd : decode w with
      | error e => simp [legalInput, hd, Except.toOption] at hw
      | ok i =>
        obtain ⟨hinputs, -⟩ := opEffect_ports (afterInstr_opEffect i { s with inputs := rest })
        exact ⟨_, (step_of_command hs hd).trans (exec_eq i _), hinputs⟩

end Sys2Proof.Machine
end

section
/-! Statements about the step (00_scope.md R3, R5; 60_exceptions.md section 1), settled. -/

namespace Sys2Proof.Machine

/-- Settles O9: `step_of_command`. -/
theorem stepRunsDecodedCommand : Obligations.StepRunsDecodedCommand := by
  unfold Obligations.StepRunsDecodedCommand
  exact fun s w rest i => step_of_command

/-- Settles O10: the refusal of the step is named after the decoder's reason. -/
theorem stepRefusesReservedWord : Obligations.StepRefusesReservedWord := by
  unfold Obligations.StepRefusesReservedWord
  exact fun s w rest hs => ⟨step_of_refused hs, step_of_refused hs⟩

/-- Settles O11: the word is placed before the inputs that wait, and taking it leaves them. -/
theorem stepRunsPlacedWord : Obligations.StepRunsPlacedWord := by
  unfold Obligations.StepRunsPlacedWord
  intro s w i h
  have hd : decode (tableWord 64 w) = .ok i := by
    rw [decodeTableWord, if_pos (by decide)] at h
    cases hw : decode (tableWord 64 w) with
    | error e => simp [hw, Except.toOption] at h
    | ok j => simpa [hw, Except.toOption] using h
  exact step_of_command (s := s.withFetchWord 64 w) rfl hd

/-- Settles O12: the step that takes the reset input leaves the reset state with the later inputs. -/
theorem resetInputRestoresReset : Obligations.ResetInputRestoresReset := by
  unfold Obligations.ResetInputRestoresReset
  intro s rest hs
  exact ⟨_, step_of_reset hs, ⟨rfl, rfl, rfl, rfl, rfl, rfl, rfl, rfl, rfl, rfl⟩, rfl, rfl, rfl⟩

/-- Settles O13: `step_of_no_input`. -/
theorem idleStepKeepsStorage : Obligations.IdleStepKeepsStorage := by
  unfold Obligations.IdleStepKeepsStorage
  exact fun s => step_of_no_input

/-- Settles O14: `Fault` is empty; a decoded word runs an operation, which completes; the refusals are the decoder's. -/
theorem operationsNeverFail : Obligations.OperationsNeverFail := by
  unfold Obligations.OperationsNeverFail
  refine ⟨fun _ f => (nomatch f), fun s w rest i hs hd => ?_, fun s r => step_refused_cases⟩
  obtain ⟨hinputs, hrdata⟩ := opEffect_ports (afterInstr_opEffect i { s with inputs := rest })
  exact ⟨_, (step_of_command hs hd).trans (exec_eq i _), hinputs, hrdata⟩

/-- Settles O18, by induction on the number of steps: a legal input is taken, and the inputs after it are legal still. -/
theorem legalInputsRunOn : Obligations.LegalInputsRunOn := by
  unfold Obligations.LegalInputsRunOn
  intro n
  induction n with
  | zero => exact fun s hs _ => ⟨s, rfl, hs, rfl⟩
  | succ n ih =>
    intro s hs hlegal
    obtain ⟨t, hstep, hinputs⟩ := step_of_legal hlegal
    have hlegal' : ∀ x ∈ t.inputs, legalInput x = true := fun x hx =>
      hlegal x (List.mem_of_mem_drop (hinputs ▸ hx))
    obtain ⟨u, hrun, hu, hdrop⟩ := ih t (stepKeepsInvariants s t hs hstep) hlegal'
    refine ⟨u, ?_, hu, ?_⟩
    · rw [run_succ n hstep]
      exact hrun
    · rw [hdrop, hinputs, List.drop_drop, Nat.add_comm]

end Sys2Proof.Machine
end

section
/-! SUPPORT. READs in any state, the second of two identical WRITEs, what an operation does to one cell of VRAM, and
operations on a state with other inputs waiting (20_memory.md R42, R49; 42_vram_gate.md R103). -/

namespace Sys2Proof.Machine

theorem isRead_readOf (a : Addr) : isRead (readOf a) = true := by
  unfold readOf; split <;> rfl

/-- A READ looks at the storage alone: the result of the last operation does not reach its byte (R42, R110). -/
theorem exec_of_isRead {i : Instr} (hi : isRead i = true) (s : State) :
    ∃ b, ∀ rdata events, exec i { s with rdata := rdata, events := events } =
      .next { s with rdata := some b, events := [] } := by
  cases i with
  | readVram a =>
    by_cases hmode : s.mode = .pixelTransfer
    · exact ⟨_, fun _ _ => exec_readVram_of_closed a hmode⟩
    · exact ⟨memRead s.vram (vramIndex a), fun _ _ => exec_readVram_of_open a hmode⟩
  | readLcdc => exact ⟨_, fun _ _ => rfl⟩
  | readStat => exact ⟨statByte s, fun _ _ => rfl⟩
  | readScy => exact ⟨_, fun _ _ => rfl⟩
  | readScx => exact ⟨_, fun _ _ => rfl⟩
  | readLy => exact ⟨_, fun _ _ => rfl⟩
  | readLyc => exact ⟨_, fun _ _ => rfl⟩
  | readBgp => exact ⟨_, fun _ _ => rfl⟩
  | readUnmapped a => exact ⟨_, fun _ _ => rfl⟩
  | _ => cases hi

/-- Storing a byte where it already stands leaves canonical contents as they are. -/
theorem memWrite_idem {k : Nat} (m : Memory) (v : Byte) (hm : Memory.wf m = true) (hk : k < 8192) :
    memWrite (memWrite m k v) k v = memWrite m k v := by
  have hwf := memWrite_wf m v hm hk
  refine memory_ext _ _ (memWrite_wf _ v hwf hk) hwf fun j => ?_
  rw [memRead_memWrite _ hwf, memRead_memWrite m hm]
  split <;> rfl

theorem exec_writeVram_twice (a : Addr) (v : Byte) {s : State} (hs : Memory.wf s.vram = true) :
    ∃ t, exec (.writeVram a v) s = .next t ∧ exec (.writeVram a v) t = .next { t with events := [] } := by
  by_cases hmode : s.mode = .pixelTransfer
  · exact ⟨_, exec_writeVram_of_closed a v hmode, exec_writeVram_of_closed a v hmode⟩
  · refine ⟨_, exec_writeVram_of_open a v hmode, ?_⟩
    rw [exec_writeVram_of_open a v (by exact hmode), memWrite_idem s.vram v hs (vramIndex_lt a)]

/-- Where LCDC holds the value already, bit 7 makes no edge (R83). -/
theorem exec_writeLcdc_of_stored {v : Byte} {s : State} (hv : s.control = v) (hs : s.rdata = none) :
    exec (.writeLcdc v) s = .next { s with events := [] } := by
  obtain rfl := hv
  rw [exec_writeLcdc, lcdEdge_none, beginOp, ← hs]

theorem exec_writeLcdc_twice (v : Byte) (s : State) :
    ∃ t, exec (.writeLcdc v) s = .next t ∧ exec (.writeLcdc v) t = .next { t with events := [] } := by
  obtain ⟨-, -, -, -, -, -, -, hrdata⟩ :=
    lcdEdge_frame (s.control.getLsbD 7) (v.getLsbD 7) { beginOp s with control := v }
  exact ⟨_, exec_writeLcdc v s, exec_writeLcdc_of_stored (lcdEdge_control ..) hrdata⟩

theorem exec_writeLyc_twice (v : Byte) (s : State) :
    ∃ t, exec (.writeLyc v) s = .next t ∧ exec (.writeLyc v) t = .next { t with events := [] } := by
  refine ⟨_, exec_writeLyc v s, ?_⟩
  rw [exec_writeLyc, lycEvents_self]

/-- An operation that is no write of the index leaves that cell; none breaks the canonical form (R103). -/
theorem opEffect_memRead {i : Instr} {s t : State} {k : Nat} (h : OpEffect s i t) (hs : Memory.wf s.vram = true)
    (hi : ∀ a v, i = .writeVram a v → vramIndex a ≠ k) : Memory.wf t.vram = true ∧ memRead t.vram k = memRead s.vram k := by
  cases h with
  | vram a v =>
    refine ⟨memWrite_wf s.vram v hs (vramIndex_lt a), ?_⟩
    rw [memRead_memWrite s.vram hs, if_neg (hi a v rfl)]
  | tick d =>
    obtain ⟨hvram, -⟩ := spendDots_frame (s.clocks.toNat + d.toNat) (beginOp s)
    rw [hvram]
    exact ⟨hs, rfl⟩
  | lcdc v =>
    obtain ⟨hvram, -⟩ := lcdEdge_frame (s.control.getLsbD 7) (v.getLsbD 7) { beginOp s with control := v }
    rw [hvram]
    exact ⟨hs, rfl⟩
  | read hi b => exact ⟨hs, rfl⟩
  | ignored hi => exact ⟨hs, rfl⟩
  | stat v => exact ⟨hs, rfl⟩
  | scy v => exact ⟨hs, rfl⟩
  | scx v => exact ⟨hs, rfl⟩
  | lyc v => exact ⟨hs, rfl⟩
  | bgp v => exact ⟨hs, rfl⟩

/-- What one operation keeps, any sequence of operations keeps. -/
theorem runInstrs_keeps {P : State → Prop} {is : List Instr} {s t : State}
    (hstep : ∀ i ∈ is, ∀ s t, OpEffect s i t → P s → P t) (hs : P s) (hrun : runInstrs is s = some t) : P t := by
  induction is generalizing s with
  | nil => exact Option.some.inj hrun ▸ hs
  | cons i is ih =>
    rw [runInstrs, exec_eq] at hrun
    obtain ⟨hi, his⟩ := List.forall_mem_cons.mp hstep
    exact ih his (hi s _ (afterInstr_opEffect i s) hs) hrun

end Sys2Proof.Machine
end

section
/-! Statements about what operations leave unchanged (20_memory.md, 10_state.md, 42_vram_gate.md, 60_exceptions.md),
settled. -/

namespace Sys2Proof.Machine

/-- Settles O26: the READ of an address is a READ row, whose byte depends on the storage alone. -/
theorem readsHaveNoSideEffect : Obligations.ReadsHaveNoSideEffect := by
  unfold Obligations.ReadsHaveNoSideEffect
  intro a s
  obtain ⟨b, hb⟩ := exec_of_isRead (isRead_readOf a) s
  exact ⟨b, hb s.rdata s.events, hb (some b) []⟩

/-- Settles O33: the first WRITE leaves what makes the second one change nothing, row by row. -/
theorem writesAreIdempotent : Obligations.WritesAreIdempotent := by
  unfold Obligations.WritesAreIdempotent
  intro a v s hs
  unfold writeOf
  cases target a with
  | vram => exact exec_writeVram_twice a v hs
  | regLcdc => exact exec_writeLcdc_twice v s
  | regStat => exact ⟨_, exec_writeStat v s, rfl⟩
  | regScy => exact ⟨_, rfl, rfl⟩
  | regScx => exact ⟨_, rfl, rfl⟩
  | regLy => exact ⟨_, exec_writeLy v s, rfl⟩
  | regLyc => exact exec_writeLyc_twice v s
  | regBgp => exact ⟨_, rfl, rfl⟩
  | unmapped => exact ⟨_, exec_writeUnmapped a v s, rfl⟩

/-- Settles O39: of the effects of an operation, the open gate's write alone reaches VRAM. -/
theorem vramChangedOnlyByOpenWrite : Obligations.VramChangedOnlyByOpenWrite := by
  unfold Obligations.VramChangedOnlyByOpenWrite
  intro i s t h hclosed
  cases opEffect_of_exec h with
  | vram a v hopen => exact absurd (hclosed a v rfl) hopen
  | tick d =>
    obtain ⟨hvram, -⟩ := spendDots_frame (s.clocks.toNat + d.toNat) (beginOp s)
    exact hvram
  | lcdc v =>
    obtain ⟨hvram, -⟩ := lcdEdge_frame (s.control.getLsbD 7) (v.getLsbD 7) { beginOp s with control := v }
    exact hvram
  | read | ignored | stat | scy | scx | lyc | bgp => rfl

/-- Settles O40: the open gate stores the value, no operation between reaches its cell, and the open gate reads it. -/
theorem vramReadAfterWrite : Obligations.VramReadAfterWrite := by
  unfold Obligations.VramReadAfterWrite
  intro s t u a v between hwf ha hopen hwrite hother hrun hopen'
  have hread : readOf a = .readVram a := by rw [readOf, ha]
  obtain rfl := Host.Outcome.next.inj ((exec_writeVram_of_open a v hopen).symm.trans hwrite)
  obtain ⟨-, hu⟩ : Memory.wf u.vram = true ∧ memRead u.vram (vramIndex a) = v := by
    refine runInstrs_keeps (P := fun x => Memory.wf x.vram = true ∧ memRead x.vram (vramIndex a) = v)
      (fun i hi x y hxy hx => ?_) ⟨?_, ?_⟩ hrun
    · obtain ⟨hx, hv⟩ := hx
      rw [← hv]
      exact opEffect_memRead hxy hx fun b c hb => hother b c (hb ▸ hi)
    · exact memWrite_wf s.vram v hwf (vramIndex_lt a)
    · rw [memRead_memWrite s.vram hwf, if_pos rfl]
  rw [readValue, hread, exec_readVram_of_open a hopen', hu]

/-- Settles O34: each register is a field that one effect alone writes. -/
theorem registersChangedOnlyByOwnWrite : Obligations.RegistersChangedOnlyByOwnWrite := by
  unfold Obligations.RegistersChangedOnlyByOwnWrite
  intro i s t h
  cases opEffect_of_exec h with
  | tick d =>
    obtain ⟨-, hlyc, hscy, hscx, hbgp, hcontrol, hstatEn, -⟩ :=
      spendDots_frame (s.clocks.toNat + d.toNat) (beginOp s)
    exact ⟨(absurd hcontrol ·), (absurd hstatEn ·), (absurd hscy ·), (absurd hscx ·), (absurd hlyc ·), (absurd hbgp ·)⟩
  | lcdc v =>
    obtain ⟨-, hlyc, hscy, hscx, hbgp, hstatEn, -⟩ :=
      lcdEdge_frame (s.control.getLsbD 7) (v.getLsbD 7) { beginOp s with control := v }
    exact ⟨fun _ => ⟨v, rfl⟩, (absurd hstatEn ·), (absurd hscy ·), (absurd hscx ·), (absurd hlyc ·), (absurd hbgp ·)⟩
  | _ => simp

/-- Settles O35: without an edge of bit 7 a WRITE_LCDC restarts nothing, and no other effect but a TICK writes `mode`,
`ly` or `clocks`. -/
theorem sequencerMovedOnlyByTickOrLcdcEdge : Obligations.SequencerMovedOnlyByTickOrLcdcEdge := by
  unfold Obligations.SequencerMovedOnlyByTickOrLcdcEdge
  intro i s t h hmoved
  cases opEffect_of_exec h with
  | tick d => exact .inl ⟨d, rfl⟩
  | lcdc v =>
    refine .inr ⟨v, rfl, fun hsame => hmoved ?_⟩
    rw [hsame, lcdEdge_none]
    exact ⟨rfl, rfl, rfl⟩
  | _ => exact absurd ⟨rfl, rfl, rfl⟩ hmoved

/-- Settles O36: without an edge of bit 7 a WRITE_LCDC emits nothing, a WRITE_LYC that keeps the comparison emits
`lycEvents` of two equal flags, and no other effect but a TICK leaves an event. -/
theorem onlyTheseOperationsEmit : Obligations.OnlyTheseOperationsEmit := by
  unfold Obligations.OnlyTheseOperationsEmit
  intro i s t h hemit
  cases opEffect_of_exec h with
  | tick d => exact .inl ⟨d, rfl⟩
  | lcdc v =>
    refine .inr (.inl ⟨v, rfl, fun hsame => hemit ?_⟩)
    rw [hsame, lcdEdge_none]
    rfl
  | lyc v =>
    refine .inr (.inr ⟨v, rfl, fun hsame => hemit ?_⟩)
    rw [hsame]
    exact lycEvents_self _
  | _ => exact absurd rfl hemit

end Sys2Proof.Machine
end

section
/-! SUPPORT. R67's loop does not see what it does not read: the clocks it starts from, the fields outside the sequencer
and LYC, and the events already emitted; and spending dots in two parts (40_timing_fsm.md R67, R74, R76). -/

namespace Sys2Proof.Machine

/-- A change of the state that the phase ends do not see, the loop does not see; `g` is the change after the final store
of `clocks`. -/
theorem tickLoop_map {f g : State → State} (hmode : ∀ s, (f s).mode = s.mode)
    (hend : ∀ s, endPhase (f s) = f (endPhase s))
    (hclocks : ∀ s (b : BitVec 9), { f s with clocks := b } = g { s with clocks := b }) (fuel c : Nat) (s : State) :
    tickLoop fuel c (f s) = g (tickLoop fuel c s) := by
  induction fuel generalizing c s with
  | zero => exact hclocks s _
  | succ fuel ih =>
    by_cases hc : c < budget s.mode
    · rw [tickLoop_succ_of_lt fuel hc, tickLoop_succ_of_lt fuel (hmode s ▸ hc)]
      exact hclocks s _
    · have hle := Nat.not_lt.mp hc
      rw [tickLoop_succ_of_le fuel hle, tickLoop_succ_of_le fuel (hmode s ▸ hle), hmode, hend]
      exact ih _ _

theorem endPhase_setClocks (b : BitVec 9) (s : State) :
    endPhase { s with clocks := b } = { endPhase s with clocks := b } := by
  obtain ⟨_, mode, _⟩ := s
  cases mode with
  | oamScan => rfl
  | pixelTransfer => rfl
  | hBlank => rw [endPhase_hBlank _ rfl, endPhase_hBlank _ rfl]; split <;> rfl
  | vBlank => rw [endPhase_vBlank _ rfl, endPhase_vBlank _ rfl]; split <;> rfl

/-- The loop counts its own dots, so the `clocks` of the state it starts from are not read. -/
theorem spendDots_setClocks (c : Nat) (b : BitVec 9) (s : State) :
    spendDots c { s with clocks := b } = spendDots c s :=
  tickLoop_map (f := fun s => { s with clocks := b }) (g := id) (fun _ => rfl) (endPhase_setClocks b) (fun _ _ => rfl)
    _ c s

/-- The state `c` where the sequencer and LYC are those of `s`, and the events of `s` follow those of `before`. -/
def graft (c : State) (before : List Event) (s : State) : State :=
  { c with mode := s.mode, clocks := s.clocks, ly := s.ly, lyc := s.lyc, events := before ++ s.events }

theorem endPhase_graft (c : State) (before : List Event) (s : State) :
    endPhase (graft c before s) = graft c before (endPhase s) := by
  obtain ⟨_, mode, _⟩ := s
  cases mode with
  | oamScan => rfl
  | pixelTransfer =>
    rw [endPhase_pixelTransfer _ rfl, endPhase_pixelTransfer _ rfl]
    simp only [graft, List.append_assoc]
  | hBlank =>
    rw [endPhase_hBlank _ rfl, endPhase_hBlank _ rfl]
    simp only [graft, List.append_assoc]
    split <;> rfl
  | vBlank =>
    rw [endPhase_vBlank _ rfl, endPhase_vBlank _ rfl]
    simp only [graft, List.append_assoc]
    split <;> rfl

/-- The loop reads `mode`, `ly` and `lyc` and appends to the events: it runs in any other state alike (R67, R74). -/
theorem spendDots_graft (n : Nat) (c : State) (before : List Event) (s : State) :
    spendDots n (graft c before s) = graft c before (spendDots n s) :=
  tickLoop_map (f := graft c before) (g := graft c before) (fun _ => rfl) (endPhase_graft c before)
    (fun _ _ => rfl) _ n s

/-- The frame of a TICK as one equation: it is the state it started from where the sequencer and the events are new. -/
theorem spendDots_eq_graft (n : Nat) (s : State) : spendDots n s = graft s [] (spendDots n s) := by
  refine tickLoop_keeps (fun t => t = graft s [] t) (fun t ht => ?_) (fun t b ht => ?_) _ n s rfl
  · rw [← endPhase_graft, ← ht]
  · exact congrArg (fun t => { t with clocks := b }) ht

/-- An operation's events begin anew: where the loop goes on from a state with events, they stand before its own. -/
theorem spendDots_beginOp (n : Nat) {s : State} (hs : s.rdata = none) :
    spendDots n s = { spendDots n (beginOp s) with events := s.events ++ (spendDots n (beginOp s)).events } := by
  have hstart : graft s s.events (beginOp s) = s := by simp [graft]
  have hframe := spendDots_eq_graft n (beginOp s)
  have hrun := spendDots_graft n s s.events (beginOp s)
  rw [hstart] at hrun
  generalize spendDots n (beginOp s) = t at hframe hrun
  have hfields : graft s s.events t = { graft (beginOp s) [] t with events := s.events ++ t.events } := by
    rw [graft, hs]
    rfl
  rw [hrun, hfields, ← hframe]

/-- Spending dots in two parts is spending them at once: what the first part leaves in `clocks` counts again (R76). -/
theorem spendDots_add (c d : Nat) (s : State) :
    spendDots (c + d) s = spendDots ((spendDots c s).clocks.toNat + d) (spendDots c s) := by
  induction c using Nat.strong_induction_on generalizing s with
  | h c ih =>
    have hbudget := budget_le s.mode
    have hpass := budget_ge s.mode
    by_cases hc : c < budget s.mode
    · have hfits : (BitVec.ofNat 9 c).toNat = c := (BitVec.toNat_ofNat _ _).trans (Nat.mod_eq_of_lt (by omega))
      rw [spendDots_of_lt hc, hfits]
      exact (spendDots_setClocks ..).symm
    · have hle := Nat.not_lt.mp hc
      rw [spendDots_of_le (c := c) hle, spendDots_of_le (by omega), ← ih _ (by omega)]
      congr 1
      omega

end Sys2Proof.Machine
end

section
/-! SUPPORT. The dot of the frame that a phase begins at, and the loop as a counter of 70 224 dots (40_timing_fsm.md R77,
R78). -/

namespace Sys2Proof.Machine

/-- The dot of the frame at which the phase of the state is entered (R77). -/
def phasePosition (s : State) : Nat := 456 * s.ly.toNat + phaseStart s.mode

theorem framePosition_eq (s : State) : framePosition s = phasePosition s + s.clocks.toNat := rfl

/-- Within a phase the frame does not end: the last line's V-blank budget ends it. -/
theorem phasePosition_add_budget_le {s : State} (hs : s.LineInv) : phasePosition s + budget s.mode ≤ 70224 := by
  obtain ⟨hly, hvb⟩ := hs
  unfold phasePosition
  cases hmode : s.mode <;> simp only [hmode, reduceCtorEq, true_iff, false_iff, phaseStart, budget_oamScan,
    budget_pixelTransfer, budget_hBlank, budget_vBlank] at hvb ⊢ <;> omega

/-- The end of a phase is one budget later in the frame, which ends after 70 224 dots (R65, R66, R78). -/
theorem endPhase_phasePosition {s : State} (hs : s.LineInv) :
    phasePosition (endPhase s) = (phasePosition s + budget s.mode) % 70224 := by
  obtain ⟨hmode, hly, h⟩ | ⟨hmode, hly, h⟩ | ⟨hmode, hly, h⟩ | ⟨hmode, hly, h⟩ | ⟨hmode, hly, hlt, h⟩ | ⟨hmode, hly, h⟩ :=
    endPhase_cases hs <;> rw [h, phasePosition, phasePosition, hmode]
  · simp only [phaseStart, budget_oamScan]
    omega
  · simp only [phaseStart, budget_pixelTransfer]
    omega
  · simp only [ly_succ_toNat (ly := s.ly) (by omega), phaseStart, budget_hBlank]
    omega
  · simp [phaseStart, hly]
  · simp only [ly_succ_toNat (ly := s.ly) (by omega), phaseStart, budget_vBlank]
    omega
  · simp [phaseStart, hly]

/-- The loop adds its dots to the place in the frame (R77, R78). -/
theorem framePosition_spendDots (c : Nat) {s : State} (hs : s.LineInv) :
    framePosition (spendDots c s) = (phasePosition s + c) % 70224 := by
  induction c using Nat.strong_induction_on generalizing s with
  | h c ih =>
    have hend := phasePosition_add_budget_le hs
    have hbudget := budget_le s.mode
    have hpass := budget_ge s.mode
    by_cases hc : c < budget s.mode
    · have hfits : (BitVec.ofNat 9 c).toNat = c := (BitVec.toNat_ofNat _ _).trans (Nat.mod_eq_of_lt (by omega))
      rw [spendDots_of_lt hc, Nat.mod_eq_of_lt (by omega), framePosition_eq, hfits]
      rfl
    · have hle := Nat.not_lt.mp hc
      rw [spendDots_of_le hle, ih _ (by omega) (endPhase_lineInv hs), endPhase_phasePosition hs]
      omega

/-- Invariants 1, 2 and 4 of 10_state.md section 7: what a sequencer position meets, whatever VRAM holds. -/
def State.SeqInv (s : State) : Prop := s.LineInv ∧ s.clocks.toNat < budget s.mode

theorem seqInv_of_inv {s : State} (hs : s.Inv) : s.SeqInv := by
  obtain ⟨hline, hclocks, -⟩ := (inv_iff s).mp hs
  exact ⟨hline, hclocks⟩

theorem spendDots_seqInv (c : Nat) {s : State} (hs : s.LineInv) : (spendDots c s).SeqInv :=
  ⟨spendDots_lineInv c hs, spendDots_clocks_lt_budget c s⟩

theorem framePosition_lt {s : State} (hs : s.SeqInv) : framePosition s < 70224 := by
  obtain ⟨hline, hclocks⟩ := hs
  have hend := phasePosition_add_budget_le hline
  rw [framePosition_eq]
  omega

/-- The place in the frame by line and by dot of the line, which says the mode (R77). -/
theorem framePosition_line {s : State} (hs : s.SeqInv) :
    ∃ dot < 456, framePosition s = 456 * s.ly.toNat + dot ∧ dot = phaseStart s.mode + s.clocks.toNat ∧
      s.mode = if 144 ≤ s.ly.toNat then .vBlank
        else if dot < 80 then .oamScan else if dot < 252 then .pixelTransfer else .hBlank := by
  obtain ⟨⟨hly, hvb⟩, hclocks⟩ := hs
  have hvisible : s.mode ≠ .vBlank → ¬ 144 ≤ s.ly.toNat := fun h => mt hvb.mpr h
  refine ⟨phaseStart s.mode + s.clocks.toNat, ?_, Nat.add_assoc .., rfl, ?_⟩
  · cases hmode : s.mode <;> simp only [hmode, phaseStart, budget_oamScan, budget_pixelTransfer, budget_hBlank,
      budget_vBlank] at hclocks ⊢ <;> omega
  · cases hmode : s.mode with
    | vBlank => rw [if_pos (hvb.mp hmode)]
    | oamScan =>
      rw [hmode, budget_oamScan] at hclocks
      rw [if_neg (hvisible (by simp [hmode])), phaseStart, if_pos (by omega)]
    | pixelTransfer =>
      rw [hmode, budget_pixelTransfer] at hclocks
      rw [if_neg (hvisible (by simp [hmode])), phaseStart, if_neg (by omega), if_pos (by omega)]
    | hBlank => rw [if_neg (hvisible (by simp [hmode])), phaseStart, if_neg (by omega), if_neg (by omega)]

theorem seq_eq_of_framePosition_eq {s t : State} (hs : s.SeqInv) (ht : t.SeqInv)
    (h : framePosition s = framePosition t) : s.mode = t.mode ∧ s.ly = t.ly ∧ s.clocks = t.clocks := by
  obtain ⟨dot, hdot, hpos, hsum, hmode⟩ := framePosition_line hs
  obtain ⟨dot', hdot', hpos', hsum', hmode'⟩ := framePosition_line ht
  have hly : s.ly.toNat = t.ly.toNat := by omega
  have hdots : dot = dot' := by omega
  have hmodes : s.mode = t.mode := by rw [hmode, hmode', hly, hdots]
  have hclocks : s.clocks.toNat = t.clocks.toNat := by rw [hmodes] at hsum; omega
  exact ⟨hmodes, BitVec.eq_of_toNat_eq hly, BitVec.eq_of_toNat_eq hclocks⟩

/-- V-blank is the frame from dot 65 664 on (R78). -/
theorem vBlank_iff_le_framePosition {s : State} (hs : s.SeqInv) : s.mode = .vBlank ↔ 65664 ≤ framePosition s := by
  obtain ⟨dot, hdot, hpos, -⟩ := framePosition_line hs
  obtain ⟨⟨-, hvb⟩, -⟩ := hs
  rw [hvb, hpos]
  omega

theorem exec_tick (d : Delta) (s : State) :
    exec (.tick d) s = .next (spendDots (s.clocks.toNat + d.toNat) (beginOp s)) := rfl

/-- TICK as the counter of 70 224 dots (R77, R78). -/
theorem framePosition_tick (d : Delta) {s : State} (hs : s.LineInv) :
    framePosition (spendDots (s.clocks.toNat + d.toNat) (beginOp s)) = (framePosition s + d.toNat) % 70224 := by
  rw [framePosition_spendDots _ (s := beginOp s) hs, framePosition_eq, Nat.add_assoc]
  rfl

/-- Whole frames leave the place in the frame, and so the sequencer, where it was (R78). -/
theorem tick_frames {d : Delta} {s : State} (hs : s.SeqInv) (hd : d.toNat % 70224 = 0) :
    (spendDots (s.clocks.toNat + d.toNat) (beginOp s)).mode = s.mode ∧
      (spendDots (s.clocks.toNat + d.toNat) (beginOp s)).ly = s.ly ∧
      (spendDots (s.clocks.toNat + d.toNat) (beginOp s)).clocks = s.clocks := by
  have ⟨hline, _⟩ := hs
  have hlt := framePosition_lt hs
  refine seq_eq_of_framePosition_eq (spendDots_seqInv _ (s := beginOp s) hline) hs ?_
  rw [framePosition_tick d hline]
  omega

end Sys2Proof.Machine
end

section
/-! Statements about the timing FSM (40_timing_fsm.md sections 2 and 3), settled. -/

namespace Sys2Proof.Machine

/-- Settles O43: the frame of the loop, and where it stops. -/
theorem tickCompletesAndKeepsTheRest : Obligations.TickCompletesAndKeepsTheRest := by
  unfold Obligations.TickCompletesAndKeepsTheRest
  intro d s
  obtain ⟨hvram, hlyc, hscy, hscx, hbgp, hcontrol, hstatEn, hinputs, hrdata⟩ :=
    spendDots_frame (s.clocks.toNat + d.toNat) (beginOp s)
  exact ⟨_, exec_tick d s, hvram, hlyc, hscy, hscx, hbgp, hcontrol, hstatEn, hinputs, hrdata,
    spendDots_clocks_lt_budget _ _⟩

/-- Settles O44: TICK(a + b) spends its dots in two parts, and the second TICK differs from the second part by the events
of the first alone. -/
theorem tickIsAdditive : Obligations.TickIsAdditive := by
  unfold Obligations.TickIsAdditive
  intro a b s t u hab ht hu
  have hsum : s.clocks.toNat + (a + b).toNat = s.clocks.toNat + a.toNat + b.toNat := by
    rw [BitVec.toNat_add_of_lt hab, Nat.add_assoc]
  obtain rfl := Host.Outcome.next.inj ht
  obtain rfl := Host.Outcome.next.inj hu
  obtain ⟨-, -, -, -, -, -, -, -, hrdata⟩ := spendDots_frame (s.clocks.toNat + a.toNat) (beginOp s)
  rw [exec_tick, hsum, spendDots_add, spendDots_beginOp _ hrdata]

/-- Settles O45: what is in `clocks` is below the budget of the mode, so the loop only stores it again. -/
theorem tickZeroChangesNothing : Obligations.TickZeroChangesNothing := by
  unfold Obligations.TickZeroChangesNothing
  rintro s ⟨-, -, hclocks, -⟩
  have hstop : s.clocks.toNat + (0#32).toNat < budget (beginOp s).mode := hclocks
  rw [exec_tick, spendDots_of_lt hstop, BitVec.toNat_ofNat, Nat.zero_mod, Nat.add_zero, BitVec.ofNat_toNat,
    BitVec.setWidth_eq]
  rfl

/-- Settles O46: the second state's TICK is the first one's, grafted into the second state. -/
theorem tickReadsOnlyTheSequencerAndLyc : Obligations.TickReadsOnlyTheSequencerAndLyc := by
  unfold Obligations.TickReadsOnlyTheSequencerAndLyc
  intro d s s' hmode hclocks hly hlyc
  have hgraft : beginOp s' = graft (beginOp s') [] (beginOp s) := by
    simp only [graft, beginOp_mode, beginOp_clocks, beginOp_ly, beginOp_lyc, ← hmode, ← hclocks, ← hly, ← hlyc]
    rfl
  refine ⟨_, _, exec_tick d s, exec_tick d s', ?_⟩
  rw [hclocks, hgraft, spendDots_graft]
  exact ⟨rfl, rfl, rfl, rfl⟩

/-- Settles O47: on a visible line the place in the frame says how many dots of the line are spent, and so the phase. -/
theorem visibleLineTimeline : Obligations.VisibleLineTimeline := by
  unfold Obligations.VisibleLineTimeline
  intro k s hmode hclocks hly hk
  have hline : s.LineInv := ⟨by omega, by simp [hmode]; omega⟩
  have hpos := framePosition_tick k hline
  have hseq : (spendDots (s.clocks.toNat + k.toNat) (beginOp s)).SeqInv := spendDots_seqInv _ (s := beginOp s) hline
  have hstart : framePosition s = 456 * s.ly.toNat := by simp [framePosition, hmode, hclocks, phaseStart]
  refine ⟨_, exec_tick k s, ?_⟩
  generalize spendDots (s.clocks.toNat + k.toNat) (beginOp s) = t at hpos hseq
  obtain ⟨dot, hdot, hposLine, hsum, htmode⟩ := framePosition_line hseq
  rw [hstart, Nat.mod_eq_of_lt (by omega), hposLine] at hpos
  have hwithin (h : k.toNat < 456) : t.ly = s.ly ∧ dot = k.toNat := ⟨BitVec.eq_of_toNat_eq (by omega), by omega⟩
  refine ⟨fun h => ?_, fun h h' => ?_, fun h h' => ?_, fun h => ?_⟩
  · obtain ⟨htly, hdots⟩ := hwithin (by omega)
    have hphase : t.mode = .oamScan := by rw [htmode, if_neg (by omega), if_pos (by omega)]
    rw [hphase, phaseStart] at hsum
    exact ⟨hphase, by omega, htly⟩
  · obtain ⟨htly, hdots⟩ := hwithin (by omega)
    have hphase : t.mode = .pixelTransfer := by rw [htmode, if_neg (by omega), if_neg (by omega), if_pos (by omega)]
    rw [hphase, phaseStart] at hsum
    exact ⟨hphase, by omega, htly⟩
  · obtain ⟨htly, hdots⟩ := hwithin (by omega)
    have hphase : t.mode = .hBlank := by rw [htmode, if_neg (by omega), if_neg (by omega), if_neg (by omega)]
    rw [hphase, phaseStart] at hsum
    exact ⟨hphase, by omega, htly⟩
  · have hnext : t.ly.toNat = (s.ly + 1#8).toNat := by rw [ly_succ_toNat (by omega)]; omega
    have hclocks' : t.clocks.toNat = 0 := by omega
    refine ⟨?_, BitVec.eq_of_toNat_eq hclocks', BitVec.eq_of_toNat_eq hnext⟩
    rw [htmode, if_pos (c := dot < 80) (by omega)]
    exact if_congr (by omega) rfl rfl

/-- Settles O48: `framePosition_tick`. -/
theorem tickAdvancesFramePosition : Obligations.TickAdvancesFramePosition := by
  unfold Obligations.TickAdvancesFramePosition
  intro d s hs
  obtain ⟨hline, -⟩ := seqInv_of_inv hs
  exact ⟨_, exec_tick d s, framePosition_tick d hline⟩

/-- Settles O49: the quotient by 456 is the line, and the remainder says the phase and the dots spent in it. -/
theorem framePositionIsFaithful : Obligations.FramePositionIsFaithful := by
  unfold Obligations.FramePositionIsFaithful
  exact ⟨fun s hs => framePosition_lt (seqInv_of_inv hs),
    fun s t hs ht => seq_eq_of_framePosition_eq (seqInv_of_inv hs) (seqInv_of_inv ht)⟩

/-- Settles O50: whole frames by `tick_frames`; from a frame's start the place in the frame is the dots spent, and V-blank
holds from place 65 664 = 456 * 144 on. -/
theorem framePeriodReturnsSequencer : Obligations.FramePeriodReturnsSequencer := by
  unfold Obligations.FramePeriodReturnsSequencer
  constructor
  · intro k s hs hk
    have hd : (BitVec.ofNat 32 (70224 * k)).toNat % 70224 = 0 := by
      rw [BitVec.toNat_ofNat, Nat.mod_eq_of_lt hk, Nat.mul_mod_right]
    exact ⟨_, exec_tick _ s, tick_frames (seqInv_of_inv hs) hd⟩
  · intro d s hmode hly hclocks hd
    have hline : s.LineInv := by simp [State.LineInv, hmode, hly]
    have hstart : framePosition s = 0 := by simp [framePosition, hmode, hly, hclocks, phaseStart]
    have hpos := framePosition_tick d hline
    have hseq := spendDots_seqInv (s.clocks.toNat + d.toNat) (s := beginOp s) hline
    rw [hstart, Nat.zero_add, Nat.mod_eq_of_lt hd] at hpos
    refine ⟨_, exec_tick d s, by rw [vBlank_iff_le_framePosition hseq, hpos], fun hentry => ?_⟩
    obtain ⟨dot, hdot, hposLine, -⟩ := framePosition_line hseq
    have hlast : (spendDots (s.clocks.toNat + d.toNat) (beginOp s)).ly.toNat = 144 := by omega
    exact BitVec.eq_of_toNat_eq hlast

/-- Settles O51: the write restarts the sequencer at the frame's start, and one frame returns it there. -/
theorem enabledLcdFramePeriod : Obligations.EnabledLcdFramePeriod := by
  unfold Obligations.EnabledLcdFramePeriod
  intro s v hold hnew
  have hrestart := lcdEdge_restarts { beginOp s with control := v } (old := s.control.getLsbD 7) (new := v.getLsbD 7)
    (by rw [hold, hnew]; decide)
  refine ⟨_, _, exec_writeLcdc v s, exec_tick _ _, ?_⟩
  generalize lcdEdge (s.control.getLsbD 7) (v.getLsbD 7) { beginOp s with control := v } = t at hrestart
  obtain ⟨hly, hclocks, hmode⟩ := hrestart
  rw [if_pos hnew] at hmode
  have hseq : t.SeqInv := by simp [State.SeqInv, State.LineInv, hmode, hly, hclocks]
  rw [← hmode, ← hly, ← hclocks]
  exact tick_frames hseq (by decide)

end Sys2Proof.Machine
end

section
/-! SUPPORT. Which events a frame has emitted by each phase, kept by every phase end up to the last line's, and when one
dot emits VBlankEntered (40_timing_fsm.md R79; 60_exceptions.md R113). -/

namespace Sys2Proof.Machine

/-- A change of the comparison emits LycMatchChanged and no other event (R64). -/
theorem count_lycEvents_of_ne {e : Event} (he : ∀ b, e ≠ .lycMatchChanged b) (before after : Bool) :
    (lycEvents before after).count e = 0 := by
  rw [List.count_eq_zero, lycEvents]
  split <;> simp [he]

theorem count_lycEvents (b before after : Bool) :
    (lycEvents before after).count (.lycMatchChanged b) = if before ≠ after ∧ after = b then 1 else 0 := by
  revert b before after
  decide

theorem beq_eq_decide_toNat (x y : BitVec 8) : (x == y) = decide (x.toNat = y.toNat) := by
  rw [Bool.eq_iff_iff, beq_iff_eq, decide_eq_true_iff, BitVec.toNat_inj]

/-- On the way to the next line the match with LYC is gained where that line is LYC, and lost where this one is (R64). -/
theorem count_lycEvents_succ {ly lyc : BitVec 8} (h : ly.toNat < 255) :
    (lycEvents (ly == lyc) (ly + 1#8 == lyc)).count (.lycMatchChanged true) =
        (if ly.toNat + 1 = lyc.toNat then 1 else 0) ∧
      (lycEvents (ly == lyc) (ly + 1#8 == lyc)).count (.lycMatchChanged false) =
        if ly.toNat = lyc.toNat then 1 else 0 := by
  rw [count_lycEvents, count_lycEvents, beq_eq_decide_toNat, beq_eq_decide_toNat, ly_succ_toNat h]
  simp only [ne_eq, decide_eq_decide, decide_eq_true_eq, decide_eq_false_iff_not]
  exact ⟨if_congr (by omega) rfl rfl, if_congr (by omega) rfl rfl⟩

/-- How many HBlanks of the frame have begun by a phase of a line. -/
def hBlanksBegun (ly : Nat) : Mode → Nat
  | .oamScan => ly
  | .pixelTransfer => ly
  | .hBlank => ly + 1
  | .vBlank => 144

/-- How many OamScans after the first one have begun by a phase of a line. -/
def oamScansBegun (ly : Nat) : Mode → Nat
  | .oamScan => ly
  | .pixelTransfer => ly
  | .hBlank => ly
  | .vBlank => 143

/-- The phase events since the frame's start, counted by where the sequencer is now (R79). -/
structure PhaseTally (mode : Mode) (ly : BitVec 8) (events : List Event) : Prop where
  hBlank : events.count .hBlankEntered = hBlanksBegun ly.toNat mode
  oam : events.count .oamEntered = oamScansBegun ly.toNat mode
  vBlank : events.count .vBlankEntered = if mode = .vBlank then 1 else 0
  frame : events.count .frameCompleted = 0

/-- LycMatchChanged of each sense since the frame's start, counted by LY and LYC now: LY 0 is not entered (R79). -/
structure LycTally (lyc ly : BitVec 8) (events : List Event) : Prop where
  matched : events.count (.lycMatchChanged true) = if 1 ≤ lyc.toNat ∧ lyc.toNat ≤ ly.toNat then 1 else 0
  unmatched : events.count (.lycMatchChanged false) = if lyc.toNat < ly.toNat then 1 else 0

/-- A line more is a gain or a loss of the match at most once. -/
theorem lycTally_succ {lyc ly : BitVec 8} {events : List Event} (h : LycTally lyc ly events) (hly : ly.toNat < 255) :
    LycTally lyc (ly + 1#8) (events ++ lycEvents (ly == lyc) (ly + 1#8 == lyc)) := by
  obtain ⟨hmatched, hunmatched⟩ := h
  obtain ⟨hgain, hloss⟩ := count_lycEvents_succ (lyc := lyc) hly
  constructor
  · rw [List.count_append, hmatched, hgain, ly_succ_toNat hly]
    split_ifs <;> omega
  · rw [List.count_append, hunmatched, hloss, ly_succ_toNat hly]
    split_ifs <;> omega

/-- An event of another kind does not count. -/
theorem lycTally_append {lyc ly : BitVec 8} {events : List Event} (h : LycTally lyc ly events) {e : Event}
    (he : ∀ b, e ≠ .lycMatchChanged b) : LycTally lyc ly (events ++ [e]) := by
  obtain ⟨hmatched, hunmatched⟩ := h
  constructor <;> simp [he, hmatched, hunmatched]

/-- The way from LY 153 to LY 0 completes the frame: a LYC that LY reaches is matched once and left once (R79). -/
theorem LycTally.count_frame {lyc : BitVec 8} {events : List Event} (h : LycTally lyc 153#8 events) (b : Bool) :
    (events ++ lycEvents (153#8 == lyc) (0#8 == lyc)).count (.lycMatchChanged b) =
      if lyc.toNat ≤ 153 then 1 else 0 := by
  obtain ⟨hmatched, hunmatched⟩ := h
  have hlast : (153#8).toNat = 153 := rfl
  have hfirst : (0#8).toNat = 0 := rfl
  rw [hlast] at hmatched hunmatched
  rw [List.count_append, count_lycEvents, beq_eq_decide_toNat, beq_eq_decide_toNat, hlast, hfirst]
  cases b with
  | true =>
    simp only [hmatched, ne_eq, decide_eq_decide, decide_eq_true_eq]
    split_ifs <;> omega
  | false =>
    simp only [hunmatched, ne_eq, decide_eq_decide, decide_eq_false_iff_not]
    split_ifs <;> omega

/-- Every phase end but the frame's last keeps the count of LycMatchChanged. -/
theorem endPhase_lycTally {s : State} (hs : s.LineInv) (hlast : ¬ (s.mode = .vBlank ∧ s.ly.toNat = 153))
    (h : LycTally s.lyc s.ly s.events) :
    LycTally (endPhase s).lyc (endPhase s).ly (endPhase s).events := by
  have hline : s.ly.toNat < 255 := by
    obtain ⟨hly, -⟩ := hs
    omega
  have hsucc := lycTally_succ h hline
  obtain ⟨-, -, heq⟩ | ⟨-, -, heq⟩ | ⟨-, -, heq⟩ | ⟨-, hly, heq⟩ | ⟨-, -, -, heq⟩ | ⟨hmode, hly, -⟩ := endPhase_cases hs
  · rw [heq]
    exact h
  · rw [heq]
    exact lycTally_append h (by simp)
  · rw [heq]
    exact lycTally_append hsucc (by simp)
  · have h144 : 144#8 = s.ly + 1#8 := by bv_omega
    rw [heq, h144]
    exact lycTally_append hsucc (by simp)
  · rw [heq]
    exact hsucc
  · exact absurd ⟨hmode, hly⟩ hlast

/-- Every phase end but the frame's last keeps the count of the phase events. -/
theorem endPhase_phaseTally {s : State} (hs : s.LineInv) (hlast : ¬ (s.mode = .vBlank ∧ s.ly.toNat = 153))
    (h : PhaseTally s.mode s.ly s.events) :
    PhaseTally (endPhase s).mode (endPhase s).ly (endPhase s).events := by
  obtain ⟨hHBlank, hOam, hVBlank, hFrame⟩ := h
  obtain ⟨hmode, -, heq⟩ | ⟨hmode, -, heq⟩ | ⟨hmode, hly, heq⟩ | ⟨hmode, hly, heq⟩ | ⟨hmode, -, -, heq⟩ | hend :=
    endPhase_cases hs
  case inr.inr.inr.inr.inr =>
    obtain ⟨hmode, hly, -⟩ := hend
    exact absurd ⟨hmode, hly⟩ hlast
  all_goals
    rw [hmode] at hHBlank hOam hVBlank
    rw [heq]
  · exact ⟨hHBlank, hOam, hVBlank, hFrame⟩
  · constructor <;> simp [hHBlank, hOam, hVBlank, hFrame, hBlanksBegun, oamScansBegun]
  · have hsucc := ly_succ_toNat (ly := s.ly) (by omega)
    constructor <;>
      simp [hHBlank, hOam, hVBlank, hFrame, hBlanksBegun, oamScansBegun, count_lycEvents_of_ne, hsucc]
  · constructor <;> simp [hHBlank, hOam, hVBlank, hFrame, hBlanksBegun, oamScansBegun, count_lycEvents_of_ne, hly]
  · constructor <;> simp [hHBlank, hOam, hVBlank, hFrame, hBlanksBegun, oamScansBegun, count_lycEvents_of_ne, hmode]

/-- Up to the frame's end, spending dots keeps both counts. -/
theorem spendDots_tally {c : Nat} {s : State} (hs : s.LineInv) (hc : phasePosition s + c < 70224)
    (hphase : PhaseTally s.mode s.ly s.events) (hlyc : LycTally s.lyc s.ly s.events) :
    PhaseTally (spendDots c s).mode (spendDots c s).ly (spendDots c s).events ∧
      LycTally (spendDots c s).lyc (spendDots c s).ly (spendDots c s).events := by
  induction c using Nat.strong_induction_on generalizing s with
  | h c ih =>
    by_cases hlt : c < budget s.mode
    · rw [spendDots_of_lt hlt]
      exact ⟨hphase, hlyc⟩
    · have hle := Nat.not_lt.mp hlt
      have hpass := budget_ge s.mode
      have hlast : ¬ (s.mode = .vBlank ∧ s.ly.toNat = 153) := by
        rintro ⟨hmode, hly⟩
        simp only [phasePosition, hmode, hly, phaseStart, budget_vBlank] at hc hle
        omega
      have hnext := endPhase_phasePosition hs
      rw [Nat.mod_eq_of_lt (by omega)] at hnext
      rw [spendDots_of_le hle]
      exact ih _ (by omega) (endPhase_lineInv hs) (by omega) (endPhase_phaseTally hs hlast hphase)
        (endPhase_lycTally hs hlast hlyc)

/-- As many dots as the phase lasts end it, and leave none over. -/
theorem spendDots_budget (s : State) : spendDots (budget s.mode) s = { endPhase s with clocks := 0#9 } := by
  have hnone : 0 < budget (endPhase s).mode := Nat.lt_of_lt_of_le (by decide) (budget_ge _)
  rw [spendDots_of_le le_rfl, Nat.sub_self, spendDots_of_lt hnone]

/-- The events of one frame from its start: those of 456 * 153 dots, which the tallies count up to the last line, then the
change of the comparison from LY 153 to LY 0, OamEntered and FrameCompleted (R79). -/
theorem events_of_frame {s : State} (hmode : s.mode = .oamScan) (hly : s.ly = 0#8) (hevents : s.events = []) :
    ∃ events, (spendDots 70224 s).events =
        events ++ lycEvents (153#8 == s.lyc) (0#8 == s.lyc) ++ [.oamEntered, .frameCompleted] ∧
      PhaseTally .vBlank 153#8 events ∧ LycTally s.lyc 153#8 events := by
  have hline : s.LineInv := by simp [State.LineInv, hmode, hly]
  have hstart : phasePosition s = 0 := by simp [phasePosition, hmode, hly, phaseStart]
  have hphase : PhaseTally s.mode s.ly s.events := by
    constructor <;> simp [hmode, hly, hevents, hBlanksBegun, oamScansBegun]
  have hlyc : LycTally s.lyc s.ly s.events := by
    rw [hly, hevents]
    exact ⟨(if_neg fun ⟨hlo, hhi⟩ => absurd (hlo.trans hhi) (by decide)).symm, rfl⟩
  obtain ⟨hphase', hlyc'⟩ := spendDots_tally (c := 456 * 153) hline (by omega) hphase hlyc
  have hpos := framePosition_spendDots (456 * 153) hline
  have hseq := spendDots_seqInv (456 * 153) hline
  obtain ⟨-, hsameLyc, -⟩ := spendDots_frame (456 * 153) s
  have hsplit := spendDots_add (456 * 153) 456 s
  generalize spendDots (456 * 153) s = t at hphase' hlyc' hpos hseq hsameLyc hsplit
  obtain ⟨dot, hdot, hposLine, hsum, htmode⟩ := framePosition_line hseq
  have hlast : t.ly.toNat = 153 := by omega
  have htly : t.ly = 153#8 := BitVec.eq_of_toNat_eq hlast
  rw [if_pos (by omega)] at htmode
  have htclocks : t.clocks.toNat = 0 := by omega
  have hbudget : budget t.mode = 456 := by rw [htmode, budget_vBlank]
  rw [hsameLyc, htly] at hlyc'
  rw [htmode, htly] at hphase'
  refine ⟨t.events, ?_, hphase', hlyc'⟩
  rw [hsplit, htclocks, Nat.zero_add, ← hbudget, spendDots_budget, endPhase_vBlank_of_last htmode hlast, htly, hsameLyc]

theorem vBlankEntered_not_mem_lycEvents (before after : Bool) : Event.vBlankEntered ∉ lycEvents before after := by
  unfold lycEvents
  split <;> simp

/-- Of the phase ends the one from LY 143 to 144 alone emits VBlankEntered (R70, R113). -/
theorem vBlankEntered_mem_endPhase_iff {s : State} (hs : s.LineInv) (hevents : s.events = []) :
    .vBlankEntered ∈ (endPhase s).events ↔ s.ly = 143#8 ∧ (endPhase s).ly = 144#8 := by
  have hnone (before after : Bool) := vBlankEntered_not_mem_lycEvents before after
  obtain ⟨-, hly, h⟩ | ⟨-, hly, h⟩ | ⟨-, hly, h⟩ | ⟨-, hly, h⟩ | ⟨-, hly, -, h⟩ | ⟨-, hly, h⟩ := endPhase_cases hs <;>
    rw [h, hevents]
  · exact iff_of_false (by simp) (by bv_omega)
  · exact iff_of_false (by simp) (by bv_omega)
  · exact iff_of_false (by simp [hnone]) (by bv_omega)
  · exact iff_of_true (by simp) ⟨BitVec.eq_of_toNat_eq hly, rfl⟩
  · exact iff_of_false (by simp [hnone]) (by bv_omega)
  · exact iff_of_false (by simp [hnone]) (by bv_omega)

end Sys2Proof.Machine
end

section
/-! Statements about the events of a frame (40_timing_fsm.md R79; 60_exceptions.md R113), settled. -/

namespace Sys2Proof.Machine

/-- Settles O52: the tallies at the frame's last line, and what that line adds to them. -/
theorem frameEventCounts : Obligations.FrameEventCounts := by
  unfold Obligations.FrameEventCounts
  intro s hmode hly hclocks
  have hdots : s.clocks.toNat + (70224#32).toNat = 70224 := by rw [hclocks]; rfl
  obtain ⟨events, h, hphase, hlyc⟩ := events_of_frame (s := beginOp s) hmode hly rfl
  obtain ⟨hHBlank, hOam, hVBlank, hFrame⟩ := hphase
  have hLyc := hlyc.count_frame
  refine ⟨_, exec_tick _ s, ?_⟩
  rw [hdots, h]
  refine ⟨?_, ?_, ?_, ?_, ?_, ?_⟩
  · simp [hHBlank, count_lycEvents_of_ne, hBlanksBegun]
  · simp [hOam, count_lycEvents_of_ne, oamScansBegun]
  · simp [hVBlank, count_lycEvents_of_ne]
  · simp [hFrame, count_lycEvents_of_ne]
  · rw [List.count_append, hLyc]
    rfl
  · rw [List.count_append, hLyc]
    rfl

/-- Settles O53: one dot stays in the phase, with no event and LY as it was, or it ends the phase, and of the phase ends
the one from LY 143 to 144 alone emits VBlankEntered. -/
theorem vBlankEnteredWhenLyBecomes144 : Obligations.VBlankEnteredWhenLyBecomes144 := by
  unfold Obligations.VBlankEnteredWhenLyBecomes144
  intro s hs
  obtain ⟨hline, hclocks⟩ := seqInv_of_inv hs
  refine ⟨_, exec_tick _ s, ?_⟩
  change _ ∈ (spendDots (s.clocks.toNat + 1) (beginOp s)).events ↔ _ ∧ (spendDots (s.clocks.toNat + 1) (beginOp s)).ly = _
  obtain hstay | hend : s.clocks.toNat + 1 < budget s.mode ∨ s.clocks.toNat + 1 = budget s.mode := by omega
  · rw [spendDots_of_lt (s := beginOp s) hstay]
    refine iff_of_false List.not_mem_nil ?_
    rintro ⟨h143, h144⟩
    exact absurd (h143.symm.trans h144) (by decide)
  · rw [hend, ← beginOp_mode, spendDots_budget]
    exact vBlankEntered_mem_endPhase_iff (s := beginOp s) hline rfl

end Sys2Proof.Machine
end

section
/-! SUPPORT. An operation does not see the inputs that wait, so a program may be placed one operation or all at once
(30_encoding.md R60, R62; log 1). -/

namespace Sys2Proof.Machine

theorem spendDots_setInputs (n : Nat) (inputs : List HostInput) (s : State) :
    spendDots n { s with inputs := inputs } = { spendDots n s with inputs := inputs } := by
  have hgraft : ({ s with inputs := inputs } : State) = graft { s with inputs := inputs } [] s := rfl
  rw [hgraft, spendDots_graft, spendDots_eq_graft n s]
  rfl

theorem lcdEdge_setInputs (old new : Bool) (inputs : List HostInput) (s : State) :
    lcdEdge old new { s with inputs := inputs } = { lcdEdge old new s with inputs := inputs } := by
  cases old <;> cases new
  · rfl
  · rw [lcdEdge_on, lcdEdge_on, setLy_eq, setLy_eq]; rfl
  · rw [lcdEdge_off, lcdEdge_off, setLy_eq, setLy_eq]
  · rfl

theorem exec_setInputs (i : Instr) (inputs : List HostInput) (s : State) :
    exec i { s with inputs := inputs } = .next { afterInstr i s with inputs := inputs } := by
  cases i with
  | tick d => exact congrArg Host.Outcome.next (spendDots_setInputs _ inputs (beginOp s))
  | writeLcdc v => exact congrArg Host.Outcome.next (lcdEdge_setInputs _ _ inputs { beginOp s with control := v })
  | writeLyc v => rw [afterInstr, exec_writeLyc, exec_writeLyc]
  | readVram a =>
    by_cases hmode : s.mode = .pixelTransfer
    · rw [afterInstr, exec_readVram_of_closed a hmode, exec_readVram_of_closed a (by exact hmode)]
    · rw [afterInstr, exec_readVram_of_open a hmode, exec_readVram_of_open a (by exact hmode)]
  | writeVram a v =>
    by_cases hmode : s.mode = .pixelTransfer
    · rw [afterInstr, exec_writeVram_of_closed a v hmode, exec_writeVram_of_closed a v (by exact hmode)]
    · rw [afterInstr, exec_writeVram_of_open a v hmode, exec_writeVram_of_open a v (by exact hmode)]
  | _ => rfl

/-- The step on a placed program runs its first operation, and the rest of the program waits (R60, R62). -/
theorem step_loadProgram (op : HostOp) (ops : List HostOp) (s : State) :
    step (loadProgram (op :: ops) s) = .next (loadProgram ops (afterInstr op.toInstr { s with inputs := [] })) := by
  have hstep : step (loadProgram (op :: ops) s) = exec op.toInstr (loadProgram ops { s with inputs := [] }) :=
    step_of_command rfl (hostOperationWordDecodes op)
  rw [hstep, loadProgram, exec_setInputs]
  rfl

end Sys2Proof.Machine
end

section
/-! Statements about a placed program, and the sanity statements on reset values, events and the source's calls
(20_memory.md section 4; 30_encoding.md section 5; 60_exceptions.md section 2; 70_reset_and_hazards.md section 1), settled. -/

namespace Sys2Proof.Machine

/-- Settles O15, by induction on the program: the first step runs the first operation, and leaves the rest placed. -/
theorem loadedProgramRunsInOrder : Obligations.LoadedProgramRunsInOrder := by
  unfold Obligations.LoadedProgramRunsInOrder
  intro ops
  induction ops with
  | nil => exact fun s => ⟨_, rfl, rfl⟩
  | cons op ops ih =>
    intro s
    obtain ⟨t, hrun, ht⟩ := ih (afterInstr op.toInstr { s with inputs := [] })
    have hports := opEffect_ports (afterInstr_opEffect op.toInstr { s with inputs := [] })
    refine ⟨t, (run_succ _ (step_loadProgram op ops s)).trans hrun, ?_⟩
    rw [List.map_cons, runInstrs, exec_eq, ← ht]
    generalize afterInstr op.toInstr { s with inputs := [] } = u at hports
    obtain ⟨hinputs : u.inputs = [], -⟩ := hports
    rw [← hinputs]

/-- Settles O19: the reset state's fields. -/
theorem resetValues : Obligations.ResetValues := by
  unfold Obligations.ResetValues
  exact ⟨memRead_nil, rfl, rfl, rfl, rfl, rfl, rfl, rfl, rfl, rfl⟩

/-- Settles O20: in each case of `target_cases` the READ row of the target answers the reset value, which the address's
own branch of the statement names. -/
theorem readValuesAfterReset : Obligations.ReadValuesAfterReset := by
  unfold Obligations.ReadValuesAfterReset
  intro a
  obtain ⟨h, hin⟩ | ⟨-, rfl⟩ | ⟨-, rfl⟩ | ⟨-, rfl⟩ | ⟨-, rfl⟩ | ⟨-, rfl⟩ | ⟨-, rfl⟩ | ⟨-, rfl⟩ |
    ⟨h, hout, h0, h1, h2, h3, h4, h5, h7⟩ := target_cases a
  case inl =>
    have hread : readOf a = .readVram a := by rw [readOf, h]
    have hstat : a ≠ 0xFF41#16 := by bv_omega
    rw [readValue, hread, exec_readVram_of_open a (by decide), if_neg hstat, if_pos (by exact hin)]
    rfl
  case inr.inr.inr.inr.inr.inr.inr.inr =>
    have hregs : ¬ (a = 0xFF40#16 ∨ a = 0xFF42#16 ∨ a = 0xFF43#16 ∨ a = 0xFF44#16 ∨ a = 0xFF45#16 ∨ a = 0xFF47#16) := by
      simp [h0, h2, h3, h4, h5, h7]
    rw [readValue, readOf_of_unmapped h, exec_readUnmapped, if_neg h1, if_neg (by exact hout), if_neg hregs]
  all_goals decide

/-- Settles O21: the model runs it. -/
theorem firstLineAfterReset : Obligations.FirstLineAfterReset := by
  unfold Obligations.FirstLineAfterReset
  rfl

/-- Settles O23: each field of the STAT byte by its own lemma. -/
theorem readStatAssemblesByte : Obligations.ReadStatAssemblesByte := by
  unfold Obligations.ReadStatAssemblesByte
  exact fun s => ⟨statByte s, rfl, statByte_topBit s, statByte_enables s, statByte_matchBit s, statByte_modeBits s⟩

/-- Settles O29: WRITE_LCDC by its equation, with `lcdEdge` on each edge of bit 7 and on none. -/
theorem lcdcWriteByEdge : Obligations.LcdcWriteByEdge := by
  unfold Obligations.LcdcWriteByEdge
  intro s v
  refine ⟨fun hold hnew => ?_, fun hold hnew => ?_, fun hsame => ?_⟩
  · rw [exec_writeLcdc, hold, hnew, lcdEdge_off, setLy_eq]
    rfl
  · rw [exec_writeLcdc, hold, hnew, lcdEdge_on, setLy_eq]
    rfl
  · rw [exec_writeLcdc, hsame, lcdEdge_none]
    rfl

/-- Settles O55: the six records are distinct, and `eventOfRecord` looks them up. -/
theorem eventRecordsAreExact : Obligations.EventRecordsAreExact := by
  unfold Obligations.EventRecordsAreExact
  constructor
  · intro e
    cases e with
    | lycMatchChanged b => cases b <;> rfl
    | _ => rfl
  · intro r e
    cases e with
    | lycMatchChanged b => revert r b; decide
    | _ => revert r; decide

/-- Settles O56: the parser runs each line. -/
theorem sourceCallsParse : Obligations.SourceCallsParse := by
  unfold Obligations.SourceCallsParse
  decide

end Sys2Proof.Machine
end
